-- ==== Sys2Proof/Word.lean ====
section
/-! DEFINITION. The widths CORE works with (00_scope.md R6, R9): bytes, 16-bit words, 4-bit fields and the two
16-element index types. Nothing here computes: what a test could show wrong stands in Decode.lean or under Machine/. -/

namespace Sys2Proof

/-- 8 bits: a general register, a timer, a byte of memory (R9). -/
abbrev Byte := BitVec 8

/-- 16 bits: I, PC, a stack entry, an instruction word (R9, R80). -/
abbrev Word := BitVec 16

/-- A 12-bit address field NNN (R81). -/
abbrev Addr12 := BitVec 12

/-- The index of a general register V0 to VF (R21): a name, never added to or masked, so not a bit vector. -/
abbrev Reg := Fin 16

/-- The index of a key 0x0 to 0xF (R34). -/
abbrev Key := Fin 16

/-- VF, register 15, which several instructions use as a flag (R22). -/
abbrev vf : Reg := 15

end Sys2Proof
end

