-- ==== Sys2Proof/Syntax.lean ====
section
/-! DEFINITION. The instructions of CORE: one constructor for each of the 35 rows of 30_encoding.md R84
(spec/opcode_table.json), with the operand fields of R81 that the row's format uses (R82). -/

namespace Sys2Proof

/-- An instruction. Each constructor's comment gives its row's pattern, the source's mnemonic and its rule. -/
inductive Instr where
  /-- 0NNN `SYS addr`, R112 (not 00E0, not 00EE). -/
  | sys (nnn : Addr12)
  /-- 00E0 `CLS`, R180. -/
  | cls
  /-- 00EE `RET`, R115. -/
  | ret
  /-- 1NNN `JP addr`, R113. -/
  | jp (nnn : Addr12)
  /-- 2NNN `CALL addr`, R114. -/
  | call (nnn : Addr12)
  /-- 3XNN `SE Vx, byte`, R117. -/
  | seByte (x : Reg) (nn : Byte)
  /-- 4XNN `SNE Vx, byte`, R118. -/
  | sneByte (x : Reg) (nn : Byte)
  /-- 5XY0 `SE Vx, Vy`, R119. -/
  | seReg (x y : Reg)
  /-- 6XNN `LD Vx, byte`, R141. -/
  | ldByte (x : Reg) (nn : Byte)
  /-- 7XNN `ADD Vx, byte`, R142. -/
  | addByte (x : Reg) (nn : Byte)
  /-- 8XY0 `LD Vx, Vy`, R143. -/
  | ldReg (x y : Reg)
  /-- 8XY1 `OR Vx, Vy`, R144. -/
  | or (x y : Reg)
  /-- 8XY2 `AND Vx, Vy`, R145. -/
  | and (x y : Reg)
  /-- 8XY3 `XOR Vx, Vy`, R146. -/
  | xor (x y : Reg)
  /-- 8XY4 `ADD Vx, Vy`, R147. -/
  | addReg (x y : Reg)
  /-- 8XY5 `SUB Vx, Vy`, R148. -/
  | sub (x y : Reg)
  /-- 8XY6 `SHR Vx {, Vy}`, R149. -/
  | shr (x y : Reg)
  /-- 8XY7 `SUBN Vx, Vy`, R150. -/
  | subn (x y : Reg)
  /-- 8XYE `SHL Vx {, Vy}`, R151. -/
  | shl (x y : Reg)
  /-- 9XY0 `SNE Vx, Vy`, R120. -/
  | sneReg (x y : Reg)
  /-- ANNN `LD I, addr`, R201. -/
  | ldI (nnn : Addr12)
  /-- BNNN `JP V0, addr`, R116. -/
  | jpV0 (nnn : Addr12)
  /-- CXNN `RND Vx, byte`, R160. -/
  | rnd (x : Reg) (nn : Byte)
  /-- DXYN `DRW Vx, Vy, nibble`, R182 (N not 0). -/
  | drw (x y : Reg) (n : BitVec 4)
  /-- EX9E `SKP Vx`, R240. -/
  | skp (x : Reg)
  /-- EXA1 `SKNP Vx`, R241. -/
  | sknp (x : Reg)
  /-- FX07 `LD Vx, DT`, R230. -/
  | ldVxDt (x : Reg)
  /-- FX0A `LD Vx, K`, R250. -/
  | ldVxK (x : Reg)
  /-- FX15 `LD DT, Vx`, R231. -/
  | ldDtVx (x : Reg)
  /-- FX18 `LD ST, Vx`, R232. -/
  | ldStVx (x : Reg)
  /-- FX1E `ADD I, Vx`, R202. -/
  | addIVx (x : Reg)
  /-- FX29 `LD F, Vx`, R204. -/
  | ldFVx (x : Reg)
  /-- FX33 `LD B, Vx`, R206. -/
  | ldBVx (x : Reg)
  /-- FX55 `LD [I], Vx`, R208. -/
  | store (x : Reg)
  /-- FX65 `LD Vx, [I]`, R210. -/
  | load (x : Reg)
  deriving DecidableEq, Repr

end Sys2Proof
end

