-- ==== Sys2Proof/WellFormed.lean ====
section
/-! DEFINITION. Which terms of Instr are instructions. The operand types already bound every field by its width (R81);
what is left are the rows' extra conditions (R84 rows 1 and 24). -/

namespace Sys2Proof

/-- A row's extra condition: 0x0E0 and 0x0EE are not operands of SYS, whose words they would spell belong to CLS and RET
(R84 rows 1 to 3, R87); DRW draws 1 to 15 rows, since DXY0 is reserved (R84 row 24, R86). -/
def Instr.wf : Instr → Bool
  | .sys nnn => decide (nnn ≠ 0x0E0#12) && decide (nnn ≠ 0x0EE#12)
  | .drw _ _ n => decide (n ≠ 0#4)
  | .cls => true
  | .ret => true
  | .jp _ => true
  | .call _ => true
  | .seByte _ _ => true
  | .sneByte _ _ => true
  | .seReg _ _ => true
  | .ldByte _ _ => true
  | .addByte _ _ => true
  | .ldReg _ _ => true
  | .or _ _ => true
  | .and _ _ => true
  | .xor _ _ => true
  | .addReg _ _ => true
  | .sub _ _ => true
  | .shr _ _ => true
  | .subn _ _ => true
  | .shl _ _ => true
  | .sneReg _ _ => true
  | .ldI _ => true
  | .jpV0 _ => true
  | .rnd _ _ => true
  | .skp _ => true
  | .sknp _ => true
  | .ldVxDt _ => true
  | .ldVxK _ => true
  | .ldDtVx _ => true
  | .ldStVx _ => true
  | .addIVx _ => true
  | .ldFVx _ => true
  | .ldBVx _ => true
  | .store _ => true
  | .load _ => true

end Sys2Proof
end

