-- ==== Sys2Proof/Decode.lean ====
section
/-! DEFINITION. The opcode map of 30_encoding.md R84 as data, the decoder of R85, total on every word and every pair of
bytes, and the encoder, written from the layouts of R82. -/

namespace Sys2Proof

/-- Why a word spells no instruction (R85, R86): the decoder's one answer, with the word. -/
inductive DecodeReject where
  | unknownOpcode (w : Word)
  deriving DecidableEq, Repr

/-- The register a 4-bit field names (R83). -/
def regOfField (f : BitVec 4) : Reg := ⟨f.toNat, f.isLt⟩

/-- The 4-bit field that names a register. -/
def fieldOfReg (r : Reg) : BitVec 4 := BitVec.ofNat 4 r.val

/-- `op = w[15:12]` (R81). -/
def opField (w : Word) : BitVec 4 := w.extractLsb' 12 4
/-- `X = w[11:8]` (R81). -/
def xField (w : Word) : BitVec 4 := w.extractLsb' 8 4
/-- `Y = w[7:4]` (R81). -/
def yField (w : Word) : BitVec 4 := w.extractLsb' 4 4
/-- `N = w[3:0]` (R81). -/
def nField (w : Word) : BitVec 4 := w.extractLsb' 0 4
/-- `NN = w[7:0]` (R81). -/
def nnField (w : Word) : Byte := w.extractLsb' 0 8
/-- `NNN = w[11:0]` (R81). -/
def nnnField (w : Word) : Addr12 := w.extractLsb' 0 12

/-- Family 8 of R85's case table: the sub-opcode is N. -/
def decode8 (w : Word) : Except DecodeReject Instr :=
  let x := regOfField (xField w)
  let y := regOfField (yField w)
  match nField w with
  | 0x0#4 => .ok (.ldReg x y)
  | 0x1#4 => .ok (.or x y)
  | 0x2#4 => .ok (.and x y)
  | 0x3#4 => .ok (.xor x y)
  | 0x4#4 => .ok (.addReg x y)
  | 0x5#4 => .ok (.sub x y)
  | 0x6#4 => .ok (.shr x y)
  | 0x7#4 => .ok (.subn x y)
  | 0xE#4 => .ok (.shl x y)
  | _ => .error (.unknownOpcode w)

/-- Family E of R85's case table: the sub-opcode is NN. -/
def decodeE (w : Word) : Except DecodeReject Instr :=
  let x := regOfField (xField w)
  match nnField w with
  | 0x9E#8 => .ok (.skp x)
  | 0xA1#8 => .ok (.sknp x)
  | _ => .error (.unknownOpcode w)

/-- Family F of R85's case table: the sub-opcode is NN. -/
def decodeF (w : Word) : Except DecodeReject Instr :=
  let x := regOfField (xField w)
  match nnField w with
  | 0x07#8 => .ok (.ldVxDt x)
  | 0x0A#8 => .ok (.ldVxK x)
  | 0x15#8 => .ok (.ldDtVx x)
  | 0x18#8 => .ok (.ldStVx x)
  | 0x1E#8 => .ok (.addIVx x)
  | 0x29#8 => .ok (.ldFVx x)
  | 0x33#8 => .ok (.ldBVx x)
  | 0x55#8 => .ok (.store x)
  | 0x65#8 => .ok (.load x)
  | _ => .error (.unknownOpcode w)

/-- R85: from any word to an instruction or `UnknownOpcode(w)`; it reads nothing but the word. -/
def decode (w : Word) : Except DecodeReject Instr :=
  let x := regOfField (xField w)
  let y := regOfField (yField w)
  match opField w with
  | 0x0#4 => if w = 0x00E0#16 then .ok .cls else if w = 0x00EE#16 then .ok .ret else .ok (.sys (nnnField w))
  | 0x1#4 => .ok (.jp (nnnField w))
  | 0x2#4 => .ok (.call (nnnField w))
  | 0x3#4 => .ok (.seByte x (nnField w))
  | 0x4#4 => .ok (.sneByte x (nnField w))
  | 0x5#4 => if nField w = 0#4 then .ok (.seReg x y) else .error (.unknownOpcode w)
  | 0x6#4 => .ok (.ldByte x (nnField w))
  | 0x7#4 => .ok (.addByte x (nnField w))
  | 0x8#4 => decode8 w
  | 0x9#4 => if nField w = 0#4 then .ok (.sneReg x y) else .error (.unknownOpcode w)
  | 0xA#4 => .ok (.ldI (nnnField w))
  | 0xB#4 => .ok (.jpV0 (nnnField w))
  | 0xC#4 => .ok (.rnd x (nnField w))
  | 0xD#4 => if nField w ≠ 0#4 then .ok (.drw x y (nField w)) else .error (.unknownOpcode w)
  | 0xE#4 => decodeE w
  | 0xF#4 => decodeF w
  | _ => .error (.unknownOpcode w)

/-- The instruction word of two consecutive bytes, big-endian: the byte at the lower address is bits 15:8 (R66, R70). -/
def wordOfBytes (hi lo : Byte) : Word := hi ++ lo

/-- The decoder on the two bytes of a fetch (R66, R80). -/
def decodeBytes (hi lo : Byte) : Except DecodeReject Instr := decode (wordOfBytes hi lo)

/-- Layout `A` of R82: `oooo aaaa aaaa aaaa`. -/
def wordA (op : BitVec 4) (nnn : Addr12) : Word := op ++ nnn
/-- Layout `XNN` of R82, and `X`, whose NN is a sub-opcode: `oooo xxxx kkkk kkkk`. -/
def wordXNN (op : BitVec 4) (x : Reg) (nn : Byte) : Word := op ++ (fieldOfReg x ++ nn)
/-- Layouts `XY` and `XYN` of R82: `oooo xxxx yyyy nnnn`. -/
def wordXYN (op : BitVec 4) (x y : Reg) (n : BitVec 4) : Word := op ++ (fieldOfReg x ++ (fieldOfReg y ++ n))

/-- The word of an instruction, from R84's patterns and R82's layouts. -/
def encode : Instr → Word
  | .sys nnn => wordA 0x0#4 nnn
  | .cls => 0x00E0#16
  | .ret => 0x00EE#16
  | .jp nnn => wordA 0x1#4 nnn
  | .call nnn => wordA 0x2#4 nnn
  | .seByte x nn => wordXNN 0x3#4 x nn
  | .sneByte x nn => wordXNN 0x4#4 x nn
  | .seReg x y => wordXYN 0x5#4 x y 0x0#4
  | .ldByte x nn => wordXNN 0x6#4 x nn
  | .addByte x nn => wordXNN 0x7#4 x nn
  | .ldReg x y => wordXYN 0x8#4 x y 0x0#4
  | .or x y => wordXYN 0x8#4 x y 0x1#4
  | .and x y => wordXYN 0x8#4 x y 0x2#4
  | .xor x y => wordXYN 0x8#4 x y 0x3#4
  | .addReg x y => wordXYN 0x8#4 x y 0x4#4
  | .sub x y => wordXYN 0x8#4 x y 0x5#4
  | .shr x y => wordXYN 0x8#4 x y 0x6#4
  | .subn x y => wordXYN 0x8#4 x y 0x7#4
  | .shl x y => wordXYN 0x8#4 x y 0xE#4
  | .sneReg x y => wordXYN 0x9#4 x y 0x0#4
  | .ldI nnn => wordA 0xA#4 nnn
  | .jpV0 nnn => wordA 0xB#4 nnn
  | .rnd x nn => wordXNN 0xC#4 x nn
  | .drw x y n => wordXYN 0xD#4 x y n
  | .skp x => wordXNN 0xE#4 x 0x9E#8
  | .sknp x => wordXNN 0xE#4 x 0xA1#8
  | .ldVxDt x => wordXNN 0xF#4 x 0x07#8
  | .ldVxK x => wordXNN 0xF#4 x 0x0A#8
  | .ldDtVx x => wordXNN 0xF#4 x 0x15#8
  | .ldStVx x => wordXNN 0xF#4 x 0x18#8
  | .addIVx x => wordXNN 0xF#4 x 0x1E#8
  | .ldFVx x => wordXNN 0xF#4 x 0x29#8
  | .ldBVx x => wordXNN 0xF#4 x 0x33#8
  | .store x => wordXNN 0xF#4 x 0x55#8
  | .load x => wordXNN 0xF#4 x 0x65#8

/-- The extra condition of a row of R84. -/
inductive RowCondition where
  | always
  /-- Row 1: "not 00E0 or 00EE". -/
  | notClsOrRet
  /-- Row 24: "N not 0". -/
  | nNotZero
  deriving DecidableEq, Repr

/-- A row of R84: its mnemonic as spec/opcode_table.json spells it, match, mask and extra condition. -/
structure OpcodeRow where
  mnemonic : String
  matchBits : Word
  mask : Word
  condition : RowCondition
  deriving DecidableEq, Repr

/-- Whether a word satisfies a row's extra condition (R84). -/
def RowCondition.holds (c : RowCondition) (w : Word) : Bool :=
  match c with
  | .always => true
  | .notClsOrRet => decide (w ≠ 0x00E0#16) && decide (w ≠ 0x00EE#16)
  | .nNotZero => decide (w &&& 0x000F#16 ≠ 0#16)

/-- R84: "A word matches a row when `(w & mask) = match`, and then also satisfies the row's extra condition". -/
def OpcodeRow.matchesWord (r : OpcodeRow) (w : Word) : Bool :=
  decide (w &&& r.mask = r.matchBits) && r.condition.holds w

/-- The row of R84 that an instruction belongs to. -/
def Instr.row : Instr → OpcodeRow
  | .sys _ => ⟨"SYS_addr", 0x0000, 0xF000, .notClsOrRet⟩
  | .cls => ⟨"CLS", 0x00E0, 0xFFFF, .always⟩
  | .ret => ⟨"RET", 0x00EE, 0xFFFF, .always⟩
  | .jp _ => ⟨"JP_addr", 0x1000, 0xF000, .always⟩
  | .call _ => ⟨"CALL_addr", 0x2000, 0xF000, .always⟩
  | .seByte _ _ => ⟨"SE_Vx__byte", 0x3000, 0xF000, .always⟩
  | .sneByte _ _ => ⟨"SNE_Vx__byte", 0x4000, 0xF000, .always⟩
  | .seReg _ _ => ⟨"SE_Vx__Vy", 0x5000, 0xF00F, .always⟩
  | .ldByte _ _ => ⟨"LD_Vx__byte", 0x6000, 0xF000, .always⟩
  | .addByte _ _ => ⟨"ADD_Vx__byte", 0x7000, 0xF000, .always⟩
  | .ldReg _ _ => ⟨"LD_Vx__Vy", 0x8000, 0xF00F, .always⟩
  | .or _ _ => ⟨"OR_Vx__Vy", 0x8001, 0xF00F, .always⟩
  | .and _ _ => ⟨"AND_Vx__Vy", 0x8002, 0xF00F, .always⟩
  | .xor _ _ => ⟨"XOR_Vx__Vy", 0x8003, 0xF00F, .always⟩
  | .addReg _ _ => ⟨"ADD_Vx__Vy", 0x8004, 0xF00F, .always⟩
  | .sub _ _ => ⟨"SUB_Vx__Vy", 0x8005, 0xF00F, .always⟩
  | .shr _ _ => ⟨"SHR_Vx____Vy", 0x8006, 0xF00F, .always⟩
  | .subn _ _ => ⟨"SUBN_Vx__Vy", 0x8007, 0xF00F, .always⟩
  | .shl _ _ => ⟨"SHL_Vx____Vy", 0x800E, 0xF00F, .always⟩
  | .sneReg _ _ => ⟨"SNE_Vx__Vy", 0x9000, 0xF00F, .always⟩
  | .ldI _ => ⟨"LD_I__addr", 0xA000, 0xF000, .always⟩
  | .jpV0 _ => ⟨"JP_V0__addr", 0xB000, 0xF000, .always⟩
  | .rnd _ _ => ⟨"RND_Vx__byte", 0xC000, 0xF000, .always⟩
  | .drw _ _ _ => ⟨"DRW_Vx__Vy__nibble", 0xD000, 0xF000, .nNotZero⟩
  | .skp _ => ⟨"SKP_Vx", 0xE09E, 0xF0FF, .always⟩
  | .sknp _ => ⟨"SKNP_Vx", 0xE0A1, 0xF0FF, .always⟩
  | .ldVxDt _ => ⟨"LD_Vx__DT", 0xF007, 0xF0FF, .always⟩
  | .ldVxK _ => ⟨"LD_Vx__K", 0xF00A, 0xF0FF, .always⟩
  | .ldDtVx _ => ⟨"LD_DT__Vx", 0xF015, 0xF0FF, .always⟩
  | .ldStVx _ => ⟨"LD_ST__Vx", 0xF018, 0xF0FF, .always⟩
  | .addIVx _ => ⟨"ADD_I__Vx", 0xF01E, 0xF0FF, .always⟩
  | .ldFVx _ => ⟨"LD_F__Vx", 0xF029, 0xF0FF, .always⟩
  | .ldBVx _ => ⟨"LD_B__Vx", 0xF033, 0xF0FF, .always⟩
  | .store _ => ⟨"LD__I___Vx", 0xF055, 0xF0FF, .always⟩
  | .load _ => ⟨"LD_Vx___I", 0xF065, 0xF0FF, .always⟩

/-- One instruction of each row, in the order of R84. -/
def rowExamples : List Instr :=
  [.sys 0, .cls, .ret, .jp 0, .call 0, .seByte 0 0, .sneByte 0 0, .seReg 0 0, .ldByte 0 0, .addByte 0 0, .ldReg 0 0,
   .or 0 0, .and 0 0, .xor 0 0, .addReg 0 0, .sub 0 0, .shr 0 0, .subn 0 0, .shl 0 0, .sneReg 0 0] ++
  [.ldI 0, .jpV0 0, .rnd 0 0, .drw 0 0 1, .skp 0, .sknp 0, .ldVxDt 0, .ldVxK 0, .ldDtVx 0, .ldStVx 0, .addIVx 0,
   .ldFVx 0, .ldBVx 0, .store 0, .load 0]

/-- The opcode map: the 35 rows of R84 in order. -/
def opcodeTable : List OpcodeRow := rowExamples.map Instr.row

/-- The host's view of the decoder: the word is the low 16 of `nbits` bits, numbered as spec/opcode_table.json numbers
them; its two bytes are laid out big-endian (R70) and given to the decoder. -/
def decodeTableWord (nbits w : Nat) : Option Instr :=
  let word : Word := BitVec.ofNat 16 (w % 2 ^ nbits)
  match decodeBytes (word.extractLsb' 8 8) (word.extractLsb' 0 8) with
  | .ok i => some i
  | .error _ => none

end Sys2Proof
end

