-- ==== Sys2Proof/Config.lean ====
section
/-! DEFINITION. The configuration record of 00_scope.md R7 with its defaults, the font of 10_state.md R45, the event
alphabet of 60_exceptions.md R280, and the two free values of the model, those of 00_scope.md R8: the random byte of CXNN
and the order in which events arrive. -/

namespace Sys2Proof

/-- The source register of 8XY6 and 8XYE (R7 `QUIRK_SHIFT_SRC`, R149, R151). -/
inductive ShiftSource where
  | vx
  | vy
  deriving DecidableEq, Repr

/-- The font: 16 glyphs of 5 bytes, one byte a row from the top (R45). -/
abbrev Font := Vector (Vector Byte 5) 16

/-- R7: "No other field exists". -/
structure Config where
  /-- `STACK_DEPTH`, 12 to 16. -/
  stackDepth : Nat
  /-- `STRICT_MODE`: the write check of R64 is on. -/
  strictMode : Bool
  /-- `FONT`, 80 bytes as 16 glyphs. -/
  font : Font
  /-- `QUIRK_SHIFT_SRC`. -/
  quirkShiftSrc : ShiftSource
  /-- `QUIRK_LOGIC_VF_RESET`: 8XY1, 8XY2 and 8XY3 clear VF. -/
  quirkLogicVfReset : Bool
  /-- `ADDI_SETS_CARRY`: 7XNN writes the carry to VF. -/
  addiSetsCarry : Bool
  /-- `QUIRK_MEM_INC_I`: FX55 and FX65 advance I. -/
  quirkMemIncI : Bool
  /-- `QUIRK_JUMP_VX`: BNNN adds VX, not V0. -/
  quirkJumpVx : Bool
  deriving DecidableEq, Repr

/-- The glyphs of R45, in digit order. -/
def Config.standardFont : Font := #v[
  #v[0xF0, 0x90, 0x90, 0x90, 0xF0],
  #v[0x20, 0x60, 0x20, 0x20, 0x70],
  #v[0xF0, 0x10, 0xF0, 0x80, 0xF0],
  #v[0xF0, 0x10, 0xF0, 0x10, 0xF0],
  #v[0x90, 0x90, 0xF0, 0x10, 0x10],
  #v[0xF0, 0x80, 0xF0, 0x10, 0xF0],
  #v[0xF0, 0x80, 0xF0, 0x90, 0xF0],
  #v[0xF0, 0x10, 0x20, 0x40, 0x40],
  #v[0xF0, 0x90, 0xF0, 0x90, 0xF0],
  #v[0xF0, 0x90, 0xF0, 0x10, 0xF0],
  #v[0xF0, 0x90, 0xF0, 0x90, 0x90],
  #v[0xE0, 0x90, 0xE0, 0x90, 0xE0],
  #v[0xF0, 0x80, 0x80, 0x80, 0xF0],
  #v[0xE0, 0x90, 0x90, 0x90, 0xE0],
  #v[0xF0, 0x80, 0xF0, 0x80, 0xF0],
  #v[0xF0, 0x80, 0xF0, 0x80, 0x80]]

/-- The defaults of R7. -/
def Config.default : Config :=
  { stackDepth := 16
    strictMode := false
    font := Config.standardFont
    quirkShiftSrc := .vx
    quirkLogicVfReset := false
    addiSetsCarry := false
    quirkMemIncI := false
    quirkJumpVx := false }

/-- R7 bounds one field only: `STACK_DEPTH` is 12 to 16. -/
def Config.valid (c : Config) : Bool :=
  decide (12 ≤ c.stackDepth) && decide (c.stackDepth ≤ 16)

/-- The free value of R8 and R160: the byte `RandomByte()` gives on the n-th draw that the host's `rand` port does not
supply (log entry 3). It has no body, so nothing can be proved of its values. -/
opaque Config.randomByte : Nat → Byte

/-- `program_id` (10_state.md R38): an opaque host value that no rule reads. DESIGN CHOICE, safe: a Nat (log entry 7). -/
abbrev ProgramId := Nat

/-- The event alphabet of 60_exceptions.md R280. The draw that comes with a Cycle is taken from State (log entry 3). -/
inductive Event where
  /-- `Load(rom, program_id)`, 70_reset_and_hazards.md R300. -/
  | load (rom : List Byte) (programId : ProgramId)
  /-- `LoadUnreadable`, 70_reset_and_hazards.md R302. -/
  | loadUnreadable
  /-- `Cycle`, 30_encoding.md R100. -/
  | cycle
  /-- `Tick`, R270. -/
  | tick
  /-- `Keys(batch)`, R285: key index and whether it is pressed, in order. -/
  | keys (batch : List (Key × Bool))
  /-- `PauseToggle`, R275. -/
  | pauseToggle
  /-- `Quit`, R277. -/
  | quit
  deriving DecidableEq, Repr, Inhabited

/-- The free value of R8 and 60_exceptions.md R281: the n-th event that the host delivers where State names none (log
entry 2). It has no body, so no order of events can be proved or ruled out. -/
opaque Config.arrival : Nat → Event

end Sys2Proof
end

