-- ==== Sys2Proof/Machine/State.lean ====
section
/-! DEFINITION. The state of CORE (10_state.md R20) as plain data, the error kinds (60_exceptions.md R260), the two
stop types of the host's interface, and the state after reset (10_state.md R40). -/

namespace Sys2Proof.Machine

/-- `run_state` (R35). -/
inductive RunState where
  | running
  | paused
  | halted
  | stopped
  deriving DecidableEq, Repr

/-- The error kinds of R260, each with the information it records. -/
inductive CoreError where
  /-- Code 1: the ROM's length. A result of a load, never held in `lastError`. -/
  | romTooLarge (n : Nat)
  /-- Code 2. A result of a load, never held in `lastError`. -/
  | romUnreadable
  /-- Code 3: the CALL's address. -/
  | stackOverflow (pc0 : Word)
  /-- Code 4: the RET's address. -/
  | stackUnderflow (pc0 : Word)
  /-- Code 5: the PC of the fetch. -/
  | fetchOutOfBounds (pc : Word)
  /-- Code 6: the instruction word. -/
  | unknownOpcode (w : Word)
  /-- Code 7: the first failing effective address, mod 0x10000. -/
  | strictWriteViolation (ea : Word)
  deriving DecidableEq, Repr

/-- The framebuffer (R32): 32 rows, top first, of 64 columns, left first; `true` is on. -/
abbrev Framebuffer := Vector (Vector Bool 64) 32

/-- `mem` (R60): the bytes that differ from what they were after a load of the empty ROM, by rising address
(log entry 5). -/
abbrev Memory := List Host.Cell

/-- The record of R20, then the configuration of R7 (log entry 1), then the model's own input side (log entries 2, 3). -/
structure State where
  mem : Memory
  v : Vector Byte 16
  i : Word
  pc : Word
  /-- `stack[0]` to `stack[STACK_DEPTH - 1]` of R27; entries from STACK_DEPTH on are never used (log entry 6). -/
  stack : Vector Word 16
  /-- The number of entries in use (R27). -/
  sp : Nat
  dt : Byte
  st : Byte
  fb : Framebuffer
  /-- `key[k]`: key k is pressed (R34). -/
  key : Vector Bool 16
  runState : RunState
  /-- The register the FX0A in progress will load (R36). -/
  await : Option Reg
  lastError : Option CoreError
  programId : ProgramId
  /-- Configuration: no step changes it (R7, R20). -/
  config : Config
  /-- The model's own: events delivered and not yet applied, oldest first (R282). -/
  pending : List Event
  /-- The model's own: the events a periodic host delivers over and over once `pending` is empty, the next one first
  (R281). -/
  recurring : List Event
  /-- The model's own: how many events `Config.arrival` has supplied (R8, R281). -/
  arrivals : Nat
  /-- The model's own: bytes on the `rand` port that no CXNN has used yet (R290). -/
  randFeed : List Byte
  /-- The model's own: how many draws `Config.randomByte` has supplied (R8). -/
  draws : Nat
  deriving DecidableEq, Repr

/-- Why a step could stop with a fault. It has no constructor: every error the spec describes is taken as a transition
to Halted (R262), and R261 says that no other exception exists (log entry 10). -/
inductive Fault where
  deriving DecidableEq, Repr

/-- Why a step could answer that an instruction has no meaning. -/
inductive Refusal where
  /-- Raised by an arm of `exec` that has no meaning yet (safe: the run stops there). Every arm has one, so nothing
  raises it. -/
  | notModelled (mnemonic : String)
  deriving DecidableEq, Repr

/-- The outcome of a step of this machine. -/
abbrev StepOutcome := Host.Outcome State Fault Refusal

/-- The state after a successful load (R40, R300) of the empty ROM, which R301 says is valid, under the default
configuration. DESIGN CHOICE: the empty ROM, `programId` 0 and the model's own five fields (log entries 2, 3, 4); the
rest is R40's. -/
def State.reset : State :=
  { mem := []
    v := Vector.replicate 16 0
    i := 0
    pc := 0x200
    stack := Vector.replicate 16 0
    sp := 0
    dt := 0
    st := 0
    fb := Vector.replicate 32 (Vector.replicate 64 false)
    key := Vector.replicate 16 false
    runState := .running
    await := none
    lastError := none
    programId := 0
    config := Config.default
    pending := []
    recurring := []
    arrivals := 0
    randFeed := []
    draws := 0 }

end Sys2Proof.Machine
end

