-- ==== Sys2Proof/Machine/Ops.lean ====
section
/-! DEFINITION. The operations every instruction is written over: memory (20_memory.md), the fetch (R66), taking an error
(R14, R262), the PC advance (R100, R101) and the skip (R111), the stack controller (10_state.md R28) and the draw of a
random byte (R8). -/

namespace Sys2Proof.Machine

/-! ## Memory -/

/-- What an address that `mem` does not list reads as: its value after a load of the empty ROM, the font at 0x000 to
0x04F and 0x00 elsewhere (R40, R45, R71). -/
def Memory.unlisted (font : Font) (a : Nat) : Byte :=
  if h : a < 80 then (font[a / 5]'(by omega))[a % 5]'(by omega) else 0

/-- The byte at a physical address (R63). -/
def Memory.read (font : Font) : Memory → Nat → Byte
  | [], a => Memory.unlisted font a
  | (k, b) :: rest, a => if a = k then b else Memory.read font rest a

/-- A new first cell, unless the byte is what the address reads as anyway. -/
def Memory.cons (font : Font) (a : Nat) (b : Byte) (rest : Memory) : Memory :=
  if b = Memory.unlisted font a then rest else (a, b) :: rest

/-- Store a byte at a physical address, keeping the canonical form. -/
def Memory.write (font : Font) : Memory → Nat → Byte → Memory
  | [], a, b => Memory.cons font a b []
  | (k, c) :: rest, a, b =>
    if a < k then Memory.cons font a b ((k, c) :: rest)
    else if a = k then Memory.cons font a b rest
    else (k, c) :: Memory.write font rest a b

/-- The canonical form, for addresses from `lo` on: strictly rising, below 0x1000, and no cell equal to what its address
reads as unlisted. -/
def Memory.wfFrom (font : Font) : Nat → Memory → Bool
  | _, [] => true
  | lo, (a, b) :: rest =>
    decide (lo ≤ a) && decide (a < 0x1000) && decide (b ≠ Memory.unlisted font a) && Memory.wfFrom font (a + 1) rest

/-- The canonical form: equal memories are equal lists. -/
def Memory.wf (font : Font) (m : Memory) : Bool := Memory.wfFrom font 0 m

/-- The cells of a byte sequence placed at address `a` over unlisted memory (the ROM of R300). -/
def Memory.ofBytes (font : Font) : Nat → List Byte → Memory
  | _, [] => []
  | a, b :: bs => Memory.cons font a b (Memory.ofBytes font (a + 1) bs)

/-- `MemRead(ea, 1)` (R63): the address is masked, a read never fails. -/
def State.memRead (s : State) (ea : Nat) : Byte := Memory.read s.config.font s.mem (ea % 0x1000)

/-- The store of R65 without its check: one byte at the physical address. -/
def State.poke (s : State) (ea : Nat) (b : Byte) : State :=
  { s with mem := Memory.write s.config.font s.mem (ea % 0x1000) b }

/-- The strict-mode condition of R64, on the address before masking. -/
def State.writeForbidden (s : State) (ea : Nat) : Bool :=
  s.config.strictMode && (decide (ea < 0x200) || decide (0xFFF < ea))

/-- `MemWrite(ea, 1, b)` (R65). -/
def State.memWrite (s : State) (ea : Nat) (b : Byte) : Except CoreError State :=
  if s.writeForbidden ea then .error (.strictWriteViolation (BitVec.ofNat 16 ea)) else .ok (s.poke ea b)

/-- `MemWrite` of consecutive bytes from `ea` on, lowest address first; an error at any of them is the whole result, so
no partial write is visible (R65) and the lowest failing offset is the one reported (R264). -/
def State.storeBytes (s : State) (ea : Nat) : List Byte → Except CoreError State
  | [] => .ok s
  | b :: bs =>
    match s.memWrite ea b with
    | .error e => .error e
    | .ok t => t.storeBytes (ea + 1) bs

/-- `n` consecutive bytes from `ea` on, lowest address first. -/
def State.readBytes (s : State) (ea : Nat) : Nat → List Byte
  | 0 => []
  | n + 1 => s.memRead ea :: s.readBytes (ea + 1) n

/-- `Fetch()` (R66). -/
def State.fetch (s : State) : Except CoreError Word :=
  if 0x1000 ≤ s.pc.toNat then .error (.fetchOutOfBounds s.pc)
  else .ok (wordOfBytes (s.memRead s.pc.toNat) (s.memRead (s.pc.toNat + 1)))

/-! ## Taking an error. There is no return from one (R265). -/

/-- `raise` (R14, R262) from the state before the cycle: that state, Halted, with the error recorded. Nothing else is
saved or changed: no vector, no handler, no saved PC. -/
def State.raise (s : State) (e : CoreError) : State := { s with runState := .halted, lastError := some e }

/-! ## The program counter -/

/-- `PC <- (PC + 2) mod 0x10000` (R100). -/
def State.advance (s : State) : State := { s with pc := s.pc + 2 }

/-- A skip (R111): one more advance when the condition holds. -/
def State.skipIf (s : State) (c : Bool) : State := if c then s.advance else s

/-- The execution part of a cycle (R100): from the state before the cycle, advance PC, run the instruction's own rule,
and commit all its writes at once, or none of them when it raises. -/
def State.execute (s : State) (rule : State → Except CoreError State) : StepOutcome :=
  match rule s.advance with
  | .ok t => .next t
  | .error e => .next (s.raise e)

/-! ## The stack controller -/

/-- `Push(a)` (R28); `pc0` is the CALL's address. -/
def State.push (s : State) (pc0 a : Word) : Except CoreError State :=
  if s.sp = s.config.stackDepth then .error (.stackOverflow pc0)
  else .ok { s with stack := s.stack.setIfInBounds s.sp a, sp := s.sp + 1 }

/-- `Pop()` (R28); `pc0` is the RET's address. The entry is not cleared (R29). -/
def State.pop (s : State) (pc0 : Word) : Except CoreError (Word × State) :=
  if s.sp = 0 then .error (.stackUnderflow pc0)
  else .ok ((s.stack[s.sp - 1]?).getD 0, { s with sp := s.sp - 1 })

/-! ## The random byte -/

/-- `RandomByte()` (R8, R160): the next byte of the `rand` port, or a free value where the port has none (log
entry 3). -/
def State.randomByte (s : State) : Byte :=
  match s.randFeed with
  | r :: _ => r
  | [] => Config.randomByte s.draws

/-- The state after that draw. -/
def State.afterDraw (s : State) : State :=
  match s.randFeed with
  | _ :: rest => { s with randFeed := rest }
  | [] => { s with draws := s.draws + 1 }

end Sys2Proof.Machine
end

