-- ==== Sys2Proof/Machine/Operands.lean ====
section
/-! DEFINITION. The operand forms of the instructions: registers (10_state.md R21), the block V0 to VX (R208, R210), the
configured operands of 8XY6, 8XYE and BNNN (R149, R151, R116), key index and digit (R242, R204), addresses (R83, R200). -/

namespace Sys2Proof.Machine

/-- `V[x] <- b` (R12). -/
def State.setV (s : State) (x : Reg) (b : Byte) : State := { s with v := s.v.set x.val b x.isLt }

/-- `V[k] <- bytes[0]`, `V[k + 1] <- bytes[1]`, … (the load of R210). -/
def State.setRegsFrom (s : State) (k : Nat) : List Byte → State
  | [] => s
  | b :: bs => State.setRegsFrom { s with v := s.v.setIfInBounds k b } (k + 1) bs

/-- The bytes of V0 to VX, V0 first (the store of R208). -/
def State.regsUpTo (s : State) (x : Reg) : List Byte := s.v.toList.take (x.val + 1)

/-- The source of a shift (R149, R151): VX, or VY under `QUIRK_SHIFT_SRC` = `VY`. -/
def State.shiftOperand (s : State) (x y : Reg) : Byte :=
  match s.config.quirkShiftSrc with
  | .vx => s.v[x]
  | .vy => s.v[y]

/-- The register BNNN adds (R116): V0, or VX with X = w[11:8] under `QUIRK_JUMP_VX`. -/
def State.jumpRegister (s : State) (nnn : Addr12) : Reg :=
  if s.config.quirkJumpVx then regOfField (nnn.extractLsb' 8 4) else 0

/-- `zext_16(NNN)` (R83). -/
def absoluteAddress (nnn : Addr12) : Word := nnn.zeroExtend 16

/-- The key index of EX9E and EXA1 (R242): `V[X] & 0x0F`. -/
def State.keyOperand (s : State) (x : Reg) : Key := Fin.ofNat 16 (s.v[x] &&& 0x0F#8).toNat

/-- The glyph address of FX29 (R204): `5 * (V[X] & 0x0F)`. -/
def State.glyphAddress (s : State) (x : Reg) : Word := BitVec.ofNat 16 (5 * (s.v[x] &&& 0x0F#8).toNat)

/-- The decimal digits of a byte, hundreds first (R206). -/
def bcdDigits (b : Byte) : List Byte :=
  [BitVec.ofNat 8 (b.toNat / 100), BitVec.ofNat 8 (b.toNat / 10 % 10), BitVec.ofNat 8 (b.toNat % 10)]

/-- I after a block transfer of V0 to VX (R208, R210): moved past the block under `QUIRK_MEM_INC_I` only. -/
def State.indexAfterBlock (s : State) (x : Reg) : State :=
  if s.config.quirkMemIncI then { s with i := s.i + BitVec.ofNat 16 (x.val + 1) } else s

end Sys2Proof.Machine
end

