-- ==== Sys2Proof/Machine/Flags.lean ====
section
/-! DEFINITION. The flag computations (41_alu.md R140) and their write into VF (10_state.md R22, R23). -/

namespace Sys2Proof.Machine

/-- `bool(c)` as the byte a flag is stored as (R11). -/
def flagByte (c : Bool) : Byte := if c then 1 else 0

/-- The carry of `a + b`: `bool(a + b > 255)` (R140). -/
def carryOut (a b : Byte) : Bool := decide (255 < a.toNat + b.toNat)

/-- The NOT-borrow of `a - b`: `bool(a >= b)` (R140). -/
def notBorrow (a b : Byte) : Bool := decide (b.toNat ≤ a.toNat)

/-- The bit that 8XY6 shifts out: `s & 1` (R149). -/
def shiftedOutRight (b : Byte) : Bool := b.getLsbD 0

/-- The bit that 8XYE shifts out: `s >> 7` (R151). -/
def shiftedOutLeft (b : Byte) : Bool := b.getLsbD 7

/-- `VF <- bool(c)`. -/
def State.setFlag (s : State) (c : Bool) : State := s.setV vf (flagByte c)

/-- R23: the result goes to VX first, the flag to VF last. -/
def State.setResultAndFlag (s : State) (x : Reg) (result : Byte) (c : Bool) : State := (s.setV x result).setFlag c

/-- What 8XY1, 8XY2 and 8XY3 do to VF (R144 to R146): clear it under `QUIRK_LOGIC_VF_RESET` only. -/
def State.logicFlag (s : State) : State := if s.config.quirkLogicVfReset then s.setV vf 0 else s

/-- What 7XNN does to VF (R142): write the carry under `ADDI_SETS_CARRY` only. -/
def State.addImmediateFlag (s : State) (c : Bool) : State := if s.config.addiSetsCarry then s.setFlag c else s

end Sys2Proof.Machine
end

