-- ==== Sys2Proof/Machine/Alu.lean ====
section
/-! DEFINITION. 41_alu.md: register assignment, logic, arithmetic, shifts, the random byte. Operands are read from the
state before any write (R23); byte arithmetic wraps mod 256 (R140). -/

namespace Sys2Proof.Machine

/-- 6XNN, R141. -/
def execLdByte (x : Reg) (nn : Byte) (s : State) : StepOutcome :=
  .next (s.advance.setV x nn)

/-- 7XNN, R142. -/
def execAddByte (x : Reg) (nn : Byte) (s : State) : StepOutcome :=
  .next ((s.advance.setV x (s.v[x] + nn)).addImmediateFlag (carryOut s.v[x] nn))

/-- 8XY0, R143. -/
def execLdReg (x y : Reg) (s : State) : StepOutcome :=
  .next (s.advance.setV x s.v[y])

/-- 8XY1, R144. -/
def execOr (x y : Reg) (s : State) : StepOutcome :=
  .next (s.advance.setV x (s.v[x] ||| s.v[y])).logicFlag

/-- 8XY2, R145. -/
def execAnd (x y : Reg) (s : State) : StepOutcome :=
  .next (s.advance.setV x (s.v[x] &&& s.v[y])).logicFlag

/-- 8XY3, R146. -/
def execXor (x y : Reg) (s : State) : StepOutcome :=
  .next (s.advance.setV x (s.v[x] ^^^ s.v[y])).logicFlag

/-- 8XY4, R147. -/
def execAddReg (x y : Reg) (s : State) : StepOutcome :=
  .next (s.advance.setResultAndFlag x (s.v[x] + s.v[y]) (carryOut s.v[x] s.v[y]))

/-- 8XY5, R148. -/
def execSub (x y : Reg) (s : State) : StepOutcome :=
  .next (s.advance.setResultAndFlag x (s.v[x] - s.v[y]) (notBorrow s.v[x] s.v[y]))

/-- 8XY6, R149. -/
def execShr (x y : Reg) (s : State) : StepOutcome :=
  .next (s.advance.setResultAndFlag x (s.shiftOperand x y >>> 1) (shiftedOutRight (s.shiftOperand x y)))

/-- 8XY7, R150. -/
def execSubn (x y : Reg) (s : State) : StepOutcome :=
  .next (s.advance.setResultAndFlag x (s.v[y] - s.v[x]) (notBorrow s.v[y] s.v[x]))

/-- 8XYE, R151. -/
def execShl (x y : Reg) (s : State) : StepOutcome :=
  .next (s.advance.setResultAndFlag x (s.shiftOperand x y <<< 1) (shiftedOutLeft (s.shiftOperand x y)))

/-- CXNN, R160. -/
def execRnd (x : Reg) (nn : Byte) (s : State) : StepOutcome :=
  .next (s.advance.afterDraw.setV x (s.randomByte &&& nn))

end Sys2Proof.Machine
end

