-- ==== Sys2Proof/Machine/Control.lean ====
section
/-! DEFINITION. 40_control_flow.md: SYS, jumps, call and return, conditional skips. A meaning takes the state before the
cycle, whose PC is the instruction's address, and is the whole execution part of R100 (log entry 9). -/

namespace Sys2Proof.Machine

/-- 0NNN, R112: always UnknownOpcode(w), with the instruction's own word. -/
def execSys (nnn : Addr12) (s : State) : StepOutcome :=
  s.execute fun _ => .error (.unknownOpcode (encode (.sys nnn)))

/-- 1NNN, R113. -/
def execJp (nnn : Addr12) (s : State) : StepOutcome :=
  .next { s.advance with pc := absoluteAddress nnn }

/-- 2NNN, R114. -/
def execCall (nnn : Addr12) (s : State) : StepOutcome :=
  s.execute fun t =>
    match t.push s.pc t.pc with
    | .ok u => .ok { u with pc := absoluteAddress nnn }
    | .error e => .error e

/-- 00EE, R115. -/
def execRet (s : State) : StepOutcome :=
  s.execute fun t =>
    match t.pop s.pc with
    | .ok (a, u) => .ok { u with pc := a }
    | .error e => .error e

/-- BNNN, R116. -/
def execJpV0 (nnn : Addr12) (s : State) : StepOutcome :=
  .next { s.advance with pc := (s.v[s.jumpRegister nnn]).zeroExtend 16 + absoluteAddress nnn }

/-- 3XNN, R117. -/
def execSeByte (x : Reg) (nn : Byte) (s : State) : StepOutcome :=
  .next (s.advance.skipIf (decide (s.v[x] = nn)))

/-- 4XNN, R118. -/
def execSneByte (x : Reg) (nn : Byte) (s : State) : StepOutcome :=
  .next (s.advance.skipIf (decide (s.v[x] ≠ nn)))

/-- 5XY0, R119. -/
def execSeReg (x y : Reg) (s : State) : StepOutcome :=
  .next (s.advance.skipIf (decide (s.v[x] = s.v[y])))

/-- 9XY0, R120. -/
def execSneReg (x y : Reg) (s : State) : StepOutcome :=
  .next (s.advance.skipIf (decide (s.v[x] ≠ s.v[y])))

end Sys2Proof.Machine
end

