-- ==== Sys2Proof/Machine/Display.lean ====
section
/-! DEFINITION. The framebuffer and 42_display.md: clear screen, XOR sprite draw and collision. -/

namespace Sys2Proof.Machine

/-- The pixel at column `x mod 64`, row `y mod 32` (R32, R181). -/
def Framebuffer.pixel (fb : Framebuffer) (x y : Nat) : Bool :=
  (fb[y % 32]'(Nat.mod_lt _ (by decide)))[x % 64]'(Nat.mod_lt _ (by decide))

/-- `fb[y mod 32][x mod 64] <- fb[y mod 32][x mod 64] ^ 1` (R182). -/
def Framebuffer.flip (fb : Framebuffer) (x y : Nat) : Framebuffer :=
  fb.set (y % 32)
    ((fb[y % 32]'(Nat.mod_lt _ (by decide))).set (x % 64) (!fb.pixel x y) (Nat.mod_lt _ (by decide)))
    (Nat.mod_lt _ (by decide))

/-- Every pixel off (R180). -/
def Framebuffer.clear : Framebuffer := Vector.replicate 32 (Vector.replicate 64 false)

/-- A framebuffer being drawn on and the collision flag `c` so far. -/
structure Drawing where
  fb : Framebuffer
  collision : Bool
  deriving DecidableEq, Repr

/-- R182's inner step for a 1 bit: a pixel that is on is a collision (R183); the pixel is flipped. -/
def Drawing.plot (d : Drawing) (x y : Nat) : Drawing :=
  { fb := d.fb.flip x y, collision := d.collision || d.fb.pixel x y }

/-- R182's loop over `col`, 0 to 7, for one sprite byte: bit 7 is the leftmost pixel (R185). -/
def Drawing.row (d : Drawing) (b : Byte) (x y : Nat) : Drawing :=
  (List.range 8).foldl (fun d col => if b.getLsbD (7 - col) then d.plot (x + col) y else d) d

/-- R182's loop over `row`, the first byte at row `y`. -/
def Drawing.sprite (d : Drawing) (x y : Nat) : List Byte → Drawing
  | [] => d
  | b :: bs => (d.row b x y).sprite x (y + 1) bs

/-- The sprite bytes of DXYN: N bytes from I on (R182, R185). -/
def State.spriteBytes (s : State) (n : BitVec 4) : List Byte := s.readBytes s.i.toNat n.toNat

/-- The result of DXYN on the screen: the old VX and VY are the coordinates (R182). -/
def State.drawn (s : State) (x y : Reg) (n : BitVec 4) : Drawing :=
  Drawing.sprite { fb := s.fb, collision := false } s.v[x].toNat s.v[y].toNat (s.spriteBytes n)

/-- 00E0, R180. -/
def execCls (s : State) : StepOutcome :=
  .next { s.advance with fb := Framebuffer.clear }

/-- DXYN, R182. DXY0 spells no instruction (R86), and the decoder never gives it. -/
def execDrw (x y : Reg) (n : BitVec 4) (s : State) : StepOutcome :=
  .next (State.setFlag { s.advance with fb := (s.drawn x y n).fb } (s.drawn x y n).collision)

end Sys2Proof.Machine
end

