-- ==== Sys2Proof/Machine/IndexMemory.lean ====
section
/-! DEFINITION. 43_index_memory.md: the index register, font lookup, BCD and memory block transfer. -/

namespace Sys2Proof.Machine

/-- ANNN, R201. -/
def execLdI (nnn : Addr12) (s : State) : StepOutcome :=
  .next { s.advance with i := absoluteAddress nnn }

/-- FX1E, R202. -/
def execAddIVx (x : Reg) (s : State) : StepOutcome :=
  .next { s.advance with i := s.i + (s.v[x]).zeroExtend 16 }

/-- FX29, R204. -/
def execLdFVx (x : Reg) (s : State) : StepOutcome :=
  .next { s.advance with i := s.glyphAddress x }

/-- FX33, R206. -/
def execLdBVx (x : Reg) (s : State) : StepOutcome :=
  s.execute fun t => t.storeBytes t.i.toNat (bcdDigits t.v[x])

/-- FX55, R208. -/
def execStore (x : Reg) (s : State) : StepOutcome :=
  s.execute fun t =>
    match t.storeBytes t.i.toNat (t.regsUpTo x) with
    | .ok u => .ok (u.indexAfterBlock x)
    | .error e => .error e

/-- FX65, R210. -/
def execLoad (x : Reg) (s : State) : StepOutcome :=
  .next ((s.advance.setRegsFrom 0 (s.readBytes s.i.toNat (x.val + 1))).indexAfterBlock x)

end Sys2Proof.Machine
end

