-- ==== Sys2Proof/Machine/TimersKeypad.lean ====
section
/-! DEFINITION. 44_timers_keypad.md: timer get and set, keypad queries, the wait for a key. -/

namespace Sys2Proof.Machine

/-- FX07, R230. -/
def execLdVxDt (x : Reg) (s : State) : StepOutcome :=
  .next (s.advance.setV x s.dt)

/-- FX15, R231. -/
def execLdDtVx (x : Reg) (s : State) : StepOutcome :=
  .next { s.advance with dt := s.v[x] }

/-- FX18, R232. -/
def execLdStVx (x : Reg) (s : State) : StepOutcome :=
  .next { s.advance with st := s.v[x] }

/-- EX9E, R240. -/
def execSkp (x : Reg) (s : State) : StepOutcome :=
  .next (s.advance.skipIf s.key[s.keyOperand x])

/-- EXA1, R241. -/
def execSknp (x : Reg) (s : State) : StepOutcome :=
  .next (s.advance.skipIf (!s.key[s.keyOperand x]))

/-- FX0A, R250: the wait begins, and PC stays at the instruction (C8). The event of a key batch ends it (R286). -/
def execLdVxK (x : Reg) (s : State) : StepOutcome :=
  .next { s.advance with await := some x, pc := s.pc }

end Sys2Proof.Machine
end

