-- ==== Sys2Proof/Machine/Events.lean ====
section
/-! DEFINITION. The input events other than Cycle (60_exceptions.md R280): the timer tick (R270), the key batch (R285 to
R287), pause and quit (R275, R277), load and reset (70_reset_and_hazards.md R300 to R304). -/

namespace Sys2Proof.Machine

/-! ## Timer tick -/

/-- A timer decremented and clamped at 0 (R270). -/
def countDown (t : Byte) : Byte := if t = 0 then 0 else t - 1

/-- `Tick()` (R270, R271): only while Running, an FX0A wait in progress or not. -/
def State.tick (s : State) : State :=
  match s.runState with
  | .running => { s with dt := countDown s.dt, st := countDown s.st }
  | .paused => s
  | .halted => s
  | .stopped => s

/-! ## Key batch -/

/-- The latch and the set P of new presses, while a batch is applied (R285). P is a list with no order; only its least
element is read (R286). -/
structure KeyScan where
  key : Vector Bool 16
  pressed : List Key
  deriving DecidableEq, Repr

/-- One entry of a batch (R285): a transition from not pressed to pressed enters P; then the latch is set. -/
def KeyScan.entry (a : KeyScan) (k : Key) (p : Bool) : KeyScan :=
  { key := a.key.set k.val p k.isLt
    pressed := if p && !a.key[k] then k :: a.pressed else a.pressed }

/-- The entries of a batch, in list order (R285). -/
def KeyScan.batch (a : KeyScan) : List (Key × Bool) → KeyScan
  | [] => a
  | (k, p) :: rest => (a.entry k p).batch rest

/-- `min(P)`, none where P is empty (R286, R287). -/
def lowestKey : List Key → Option Key
  | [] => none
  | k :: rest =>
    match lowestKey rest with
    | none => some k
    | some m => some (if k ≤ m then k else m)

/-- The end of an FX0A wait (R286): the key index goes to VX as a byte, and PC moves past the FX0A. -/
def State.endWait (s : State) (x : Reg) (k : Key) : State :=
  { (s.setV x (BitVec.ofNat 8 k.val)).advance with await := none }

/-- `ResolveWait(P)` (R286): only while Running, only in a wait, only with a new press. -/
def State.resolveWait (s : State) (pressed : List Key) : State :=
  match s.runState, s.await, lowestKey pressed with
  | .running, some x, some k => s.endWait x k
  | _, _, _ => s

/-- A batch applied to the latch of a state, P empty at its start (R285). -/
def State.scanKeys (s : State) (batch : List (Key × Bool)) : KeyScan :=
  KeyScan.batch { key := s.key, pressed := [] } batch

/-- `Keys(batch)` (R285): ignored when Halted or Stopped. -/
def State.keysEvent (s : State) (batch : List (Key × Bool)) : State :=
  match s.runState with
  | .running => State.resolveWait { s with key := (s.scanKeys batch).key } (s.scanKeys batch).pressed
  | .paused => State.resolveWait { s with key := (s.scanKeys batch).key } (s.scanKeys batch).pressed
  | .halted => s
  | .stopped => s

/-! ## Run-state events -/

/-- PauseToggle (R275). -/
def State.pauseToggle (s : State) : State :=
  match s.runState with
  | .running => { s with runState := .paused }
  | .paused => { s with runState := .running }
  | .halted => s
  | .stopped => s

/-- Quit (R275, R277). -/
def State.quit (s : State) : State :=
  match s.runState with
  | .running => { s with runState := .stopped }
  | .paused => { s with runState := .stopped }
  | .halted => s
  | .stopped => s

/-! ## Load and reset -/

/-- The largest ROM: `4096 - 0x200` bytes (R6, R301). -/
def maxRomSize : Nat := 4096 - 0x200

/-- `Load(rom, program_id)` (R300, R301) under a configuration: a new machine with every field at its value in R40, or
RomTooLarge(n) and no machine. Load writes memory directly, whatever the strict mode says. -/
def load (c : Config) (rom : List Byte) (programId : ProgramId) : Except CoreError State :=
  if maxRomSize < rom.length then .error (.romTooLarge rom.length)
  else .ok { State.reset with mem := Memory.ofBytes c.font 0x200 rom, programId := programId, config := c }

/-- `LoadUnreadable` (R302): RomUnreadable and no machine. -/
def loadUnreadable : Except CoreError State := .error .romUnreadable

/-- A load while a machine exists (R303, R304): a success replaces the whole record; a failure leaves the machine alone,
and the error is the host's. The host's side of the model (events and random bytes to come) goes on (log entry 8). -/
def State.afterLoad (s : State) (result : Except CoreError State) : State :=
  match result with
  | .ok m =>
    { m with
      pending := s.pending
      recurring := s.recurring
      arrivals := s.arrivals
      randFeed := s.randFeed
      draws := s.draws }
  | .error _ => s

end Sys2Proof.Machine
end

