-- ==== Sys2Proof/Machine/Cycle.lean ====
section
/-! DEFINITION. The cycle engine (30_encoding.md R100), the application of one event (60_exceptions.md R280), and the
choice of the next event (log entry 2). -/

namespace Sys2Proof.Machine

/-- Fetch, decode and execute (R100): an error in the fetch or the decoder halts the machine as it was. -/
def State.runInstruction (s : State) : StepOutcome :=
  match s.fetch with
  | .error e => .next (s.raise e)
  | .ok w =>
    match decode w with
    | .error (.unknownOpcode u) => .next (s.raise (.unknownOpcode u))
    | .ok i => exec i s

/-- `Cycle()` (R100): no change at all unless Running and not awaiting a key. -/
def State.cycle (s : State) : StepOutcome :=
  match s.runState with
  | .running =>
    match s.await with
    | none => s.runInstruction
    | some _ => .next s
  | .paused => .next s
  | .halted => .next s
  | .stopped => .next s

/-- The effect of each event of R280. -/
def State.applyEvent (s : State) (e : Event) : StepOutcome :=
  match e with
  | .load rom programId => .next (s.afterLoad (load s.config rom programId))
  | .loadUnreadable => .next (s.afterLoad loadUnreadable)
  | .cycle => s.cycle
  | .tick => .next s.tick
  | .keys batch => .next (s.keysEvent batch)
  | .pauseToggle => .next s.pauseToggle
  | .quit => .next s.quit

/-- The next event (R281, log entry 2): the oldest pending one, else the next of a periodic host, else a free value. -/
def State.dueEvent (s : State) : Event :=
  match s.pending, s.recurring with
  | e :: _, _ => e
  | [], e :: _ => e
  | [], [] => Config.arrival s.arrivals

/-- The state with that event taken from where it came. -/
def State.takeEvent (s : State) : State :=
  match s.pending, s.recurring with
  | _ :: rest, _ => { s with pending := rest }
  | [], e :: rest => { s with recurring := rest ++ [e] }
  | [], [] => { s with arrivals := s.arrivals + 1 }

/-- One event, whole (R282). -/
def State.nextEvent (s : State) : StepOutcome := s.takeEvent.applyEvent s.dueEvent

/-- The machine ready to fetch from its PC at the very next step: Running, no wait, no error recorded, a Cycle the
only event pending, and PC in range (log entry 11). -/
def State.readyToFetch (s : State) : State :=
  { s with
    runState := .running
    await := none
    lastError := none
    pending := [.cycle]
    pc := BitVec.ofNat 16 (s.pc.toNat % 0x1000) }

/-- A word placed big-endian at PC (R66). -/
def State.placeWord (s : State) (w : Word) : State :=
  (s.poke s.pc.toNat (w.extractLsb' 8 8)).poke (s.pc.toNat + 1) (w.extractLsb' 0 8)

end Sys2Proof.Machine
end

