-- ==== Sys2Proof/Machine/Status.lean ====
section
/-! DEFINITION. The host's read-only outputs: `sound_on` (10_state.md R31), the error codes (60_exceptions.md R260) and
the status view (10_state.md R39). Reading them changes nothing. -/

namespace Sys2Proof.Machine

/-- `sound_on` = `bool(ST > 0)` (R31, R292). -/
def State.soundOn (s : State) : Bool := decide (0 < s.st.toNat)

/-- The code of an error kind (R260). -/
def CoreError.code : CoreError → BitVec 3
  | .romTooLarge _ => 1
  | .romUnreadable => 2
  | .stackOverflow _ => 3
  | .stackUnderflow _ => 4
  | .fetchOutOfBounds _ => 5
  | .unknownOpcode _ => 6
  | .strictWriteViolation _ => 7

/-- The information word of an error (R260, R39). A machine never holds the first two (log entry 12). -/
def CoreError.info : CoreError → Word
  | .romTooLarge n => BitVec.ofNat 16 n
  | .romUnreadable => 0
  | .stackOverflow pc0 => pc0
  | .stackUnderflow pc0 => pc0
  | .fetchOutOfBounds pc => pc
  | .unknownOpcode w => w
  | .strictWriteViolation ea => ea

/-- The encoding of `run_state` (R39). -/
def RunState.code : RunState → BitVec 2
  | .running => 0
  | .paused => 1
  | .halted => 2
  | .stopped => 3

/-- The fields of the status view with their widths (R39). -/
structure StatusView where
  runState : BitVec 2
  awaitValid : BitVec 1
  awaitReg : BitVec 4
  lastError : BitVec 3
  errorInfo : Word
  soundOn : BitVec 1
  deriving DecidableEq, Repr

/-- The status view of a state (R39). -/
def State.status (s : State) : StatusView :=
  { runState := s.runState.code
    awaitValid := BitVec.ofBool s.await.isSome
    awaitReg := match s.await with
      | none => 0
      | some x => BitVec.ofNat 4 x.val
    lastError := match s.lastError with
      | none => 0
      | some e => e.code
    errorInfo := match s.lastError with
      | none => 0
      | some e => e.info
    soundOn := BitVec.ofBool s.soundOn }

end Sys2Proof.Machine
end

