-- ==== Sys2Proof/Machine/Step.lean ====
section
/-! DEFINITION. One step of the machine, and the placing of an instruction where the next step fetches. -/

namespace Sys2Proof.Machine

/-- One step: the next event of 60_exceptions.md R280, applied whole. -/
def step (s : State) : Host.Outcome State Fault Refusal := s.nextEvent

/-- `s` with the instruction of `nbits` bits `w` at its PC, ready to be run by the very next step (log entry 11). -/
def State.withFetchWord (s : State) (nbits w : Nat) : State :=
  s.readyToFetch.placeWord (BitVec.ofNat 16 (w % 2 ^ nbits))

end Sys2Proof.Machine
end

