-- ==== Sys2Proof/Safety.lean ====
section
/-! DEFINITION. What the claims are stated in: the invariant of a machine, the bound on PC, and the frames that say what
an instruction leaves alone. -/

namespace Sys2Proof.Machine

/-- An error kind that only a load gives (60_exceptions.md R260, codes 1 and 2). -/
def CoreError.isLoadResult : CoreError → Bool
  | .romTooLarge _ => true
  | .romUnreadable => true
  | .stackOverflow _ => false
  | .stackUnderflow _ => false
  | .fetchOutOfBounds _ => false
  | .unknownOpcode _ => false
  | .strictWriteViolation _ => false

/-- What holds of every machine between two events. -/
structure State.Inv (s : State) : Prop where
  /-- `STACK_DEPTH` is 12 to 16 (R7). -/
  configValid : s.config.valid = true
  /-- The memory is in its canonical form (log entry 5). -/
  memory : Memory.wf s.config.font s.mem = true
  /-- SP is 0 to `STACK_DEPTH` (R27). -/
  stackBound : s.sp ≤ s.config.stackDepth
  /-- `last_error` "is not none exactly when `run_state` is Halted" (R37). -/
  errorIffHalted : s.lastError.isSome = true ↔ s.runState = .halted
  /-- "`await` is none whenever `run_state` is Halted" (R36). -/
  noWaitWhenHalted : s.runState = .halted → s.await = none
  /-- The two load errors are "never held in a machine's `last_error`" (R260). -/
  noLoadError : ∀ e, s.lastError = some e → e.isLoadResult = false

/-- The bound of 10_state.md R26 on PC, with what carries it from step to step: every stack entry has it too, and a
machine in an FX0A wait holds the address of an instruction it fetched. -/
structure State.PcBounded (s : State) : Prop where
  pc : s.pc.toNat ≤ 0x10FE
  stack : ∀ j : Fin 16, s.stack[j].toNat ≤ 0x10FE
  waiting : s.await.isSome = true → s.pc.toNat < 0x1000

/-! ## Frames: what an instruction leaves alone. Each says that `t` is `s` but for the fields named, so that every other
field of State is unchanged, and that memory, where it is not named, reads as before at every address. -/

/-- Every byte of memory reads as before. -/
def SameBytes (s t : State) : Prop := ∀ a, t.memRead a = s.memRead a

/-- Nothing but PC differs. -/
def OnlyPcChanges (s t : State) : Prop := t = { s with pc := t.pc } ∧ SameBytes s t

/-- Nothing but general registers and PC differs. -/
def OnlyRegsChange (s t : State) : Prop := t = { s with v := t.v, pc := t.pc } ∧ SameBytes s t

/-- Nothing but I and PC differs. -/
def OnlyIndexChanges (s t : State) : Prop := t = { s with i := t.i, pc := t.pc } ∧ SameBytes s t

/-- Nothing but the stack, SP and PC differs. -/
def OnlyStackChanges (s t : State) : Prop := t = { s with stack := t.stack, sp := t.sp, pc := t.pc } ∧ SameBytes s t

/-- The state an error leaves (00_scope.md R14, 60_exceptions.md R262): the state before the cycle, Halted, with the
error recorded. -/
def HaltedWith (s : State) (e : CoreError) : State := { s with runState := .halted, lastError := some e }

/-! ## The words of the claims about events, draws and block stores -/

/-- `s` with the event `e` delivered: it is the next that a step applies. -/
def State.withEvent (s : State) (e : Event) : State := { s with pending := e :: s.pending }

/-- `n` steps, one after the other, as long as each answers a next state. -/
def steps : Nat → State → StepOutcome
  | 0, s => .next s
  | n + 1, s =>
    match step s with
    | .next t => steps n t
    | .fault f => .fault f
    | .refused r => .refused r

/-- The latch after a batch: the entries applied in list order (60_exceptions.md R285). -/
def latchAfter (key : Vector Bool 16) (batch : List (Key × Bool)) : Vector Bool 16 :=
  batch.foldl (fun latch entry => latch.set entry.1.val entry.2 entry.1.isLt) key

/-- Key `k` made a transition from not pressed to pressed during the batch (60_exceptions.md R285). -/
def NewPress (key : Vector Bool 16) (batch : List (Key × Bool)) (k : Key) : Prop :=
  ∃ before after, batch = before ++ (k, true) :: after ∧ (latchAfter key before)[k] = false

/-- The sprite of `DXYN` at state `s` has a 1 bit on the pixel at column `px`, row `py` (42_display.md R181, R182,
R185). -/
def State.SpriteOn (s : State) (x y : Reg) (n : BitVec 4) (px py : Nat) : Prop :=
  ∃ row col, row < n.toNat ∧ col < 8 ∧ (s.memRead (s.i.toNat + row)).getLsbD (7 - col) = true ∧
    px = (s.v[x].toNat + col) % 64 ∧ py = (s.v[y].toNat + row) % 32

/-- The strict mode forbids a write at the effective address (20_memory.md R64). -/
def State.StrictForbids (s : State) (ea : Nat) : Prop :=
  s.config.strictMode = true ∧ (ea < 0x200 ∨ 0xFFF < ea)

/-- The strict mode forbids some of the `n` writes from I on, and the lowest forbidden one is at offset `k`. -/
def State.FirstForbidden (s : State) (n k : Nat) : Prop :=
  k < n ∧ s.StrictForbids (s.i.toNat + k) ∧ ∀ j, j < k → ¬ s.StrictForbids (s.i.toNat + j)

/-- `t` holds byte `f k` at each of the `n` addresses from I on, and every other address reads as before. -/
def BlockStored (s t : State) (n : Nat) (f : Nat → Byte) : Prop :=
  (∀ k, k < n → t.memRead (s.i.toNat + k) = f k) ∧
  ∀ a, (∀ k, k < n → a % 0x1000 ≠ (s.i.toNat + k) % 0x1000) → t.memRead a = s.memRead a

end Sys2Proof.Machine
end

