-- ==== Sys2Proof/Certificates/Slice0/Obligations.lean ====
section
/-! DEFINITION. The statements about the model, from the numbered rules of spec/. Where a statement speaks of an event,
`step (s.withEvent e)` is the step that applies `e` to `s`: the list of events to come is the model's form of delivery (log
entry 2). Where it speaks of an instruction, `exec i s` is its whole
execution part from the state `s` before the cycle, whose PC is the instruction's address (log entry 9). -/

open Sys2Proof Sys2Proof.Machine

/-! ## Encoding -/

/-- Every well-formed instruction, with every operand, is what its word decodes to. -/
def Obligations.DecodeOfEncodeIsTheInstruction : Prop :=
  ∀ i : Instr, i.wf = true → decode (encode i) = .ok i

/-- R85: "The decoder ignores no bit": the decoded instruction is well-formed and spells exactly the word. -/
def Obligations.EncodeOfDecodeIsTheWord : Prop :=
  ∀ (w : Word) (i : Instr), decode w = .ok i → i.wf = true ∧ encode i = w

/-- R84: 35 rows; a decoded word matches its instruction's row and no other; a word that matches no row is unknown. -/
def Obligations.DecoderFollowsTheOpcodeMap : Prop :=
  opcodeTable.length = 35 ∧
  (∀ (w : Word) (i : Instr), decode w = .ok i → i.row ∈ opcodeTable ∧ ∀ r ∈ opcodeTable, r.matchesWord w = true ↔ r = i.row) ∧
  (∀ w : Word, (∀ r ∈ opcodeTable, r.matchesWord w = false) → decode w = .error (.unknownOpcode w))

/-- R86's six classes of words, by their nibbles, are exactly the words that spell no instruction, and the rejection
carries the word. -/
def Obligations.ReservedWordsAreRejected : Prop :=
  ∀ w : Word,
    (∀ r, decode w = .error r → r = .unknownOpcode w) ∧
    ((∃ r, decode w = .error r) ↔
      (w.toNat / 4096 = 0x5 ∧ w.toNat % 16 ≠ 0) ∨
      (w.toNat / 4096 = 0x8 ∧ w.toNat % 16 ∈ [0x8, 0x9, 0xA, 0xB, 0xC, 0xD, 0xF]) ∨
      (w.toNat / 4096 = 0x9 ∧ w.toNat % 16 ≠ 0) ∨
      (w.toNat / 4096 = 0xD ∧ w.toNat % 16 = 0) ∨
      (w.toNat / 4096 = 0xE ∧ w.toNat % 256 ∉ [0x9E, 0xA1]) ∨
      (w.toNat / 4096 = 0xF ∧ w.toNat % 256 ∉ [0x07, 0x0A, 0x15, 0x18, 0x1E, 0x29, 0x33, 0x55, 0x65]))

/-- Words written out from R84's patterns and R82's layouts, one or two of each layout. -/
def Obligations.SpecWordsDecode : Prop :=
  decode 0x00E0 = .ok .cls ∧ decode 0x00EE = .ok .ret ∧ decode 0x0123 = .ok (.sys 0x123) ∧
  decode 0x2ABC = .ok (.call 0xABC) ∧ decode 0x7A42 = .ok (.addByte 0xA 0x42) ∧ decode 0x8126 = .ok (.shr 1 2) ∧
  decode 0xD12F = .ok (.drw 1 2 0xF) ∧ decode 0xE39E = .ok (.skp 3) ∧ decode 0xF465 = .ok (.load 4) ∧
  decodeBytes 0x12 0x34 = .ok (.jp 0x234)

/-! ## The cycle -/

/-- A step whose event is a Cycle runs the instruction that the two bytes at PC decode to, wherever the event came from
(log entry 2). -/
def Obligations.StepRunsTheDecodedInstruction : Prop :=
  ∀ (s : State) (i : Instr), s.runState = .running → s.await = none → s.pc.toNat < 0x1000 →
    decodeBytes (s.memRead s.pc.toNat) (s.memRead (s.pc.toNat + 1)) = .ok i →
    step (s.withEvent .cycle) = exec i s ∧ (s.dueEvent = .cycle → step s = exec i s.takeEvent)

/-- R100, every line of it, for a Cycle event: no change unless Running and not awaiting a key; FetchOutOfBounds at PC
0x1000 or more; UnknownOpcode for a reserved word; else the decoded instruction runs. -/
def Obligations.CycleEngine : Prop :=
  ∀ s : State,
    (s.runState ≠ .running ∨ s.await ≠ none → step (s.withEvent .cycle) = .next s) ∧
    (s.runState = .running → s.await = none →
      (0x1000 ≤ s.pc.toNat → step (s.withEvent .cycle) = .next (HaltedWith s (.fetchOutOfBounds s.pc))) ∧
      (s.pc.toNat < 0x1000 →
        ∀ w : Word, w = wordOfBytes (s.memRead s.pc.toNat) (s.memRead (s.pc.toNat + 1)) →
          (∀ r, decode w = .error r → step (s.withEvent .cycle) = .next (HaltedWith s (.unknownOpcode w))) ∧
          (∀ i, decode w = .ok i → step (s.withEvent .cycle) = exec i s)))

/-- R262: a step that halts a machine leaves it exactly as it was, but Halted and with a run-time error recorded (and,
the model's own, the event taken from where it came: log entry 2). -/
def Obligations.ErrorsLeaveThePreCycleState : Prop :=
  ∀ s t : State, s.runState ≠ .halted → step s = .next t → t.runState = .halted →
    ∃ e : CoreError, e.isLoadResult = false ∧ t = HaltedWith s.takeEvent e

/-- No state and no event stops the machine: every step answers a next state (R261, R24 "must not crash"). -/
def Obligations.EveryStepAnswersANextState : Prop :=
  ∀ s : State, ∃ t, step s = .next t

/-! ## Invariants -/

/-- Every step keeps the invariant. -/
def Obligations.StepKeepsTheInvariant : Prop :=
  ∀ s t : State, s.Inv → step s = .next t → t.Inv

/-- Every step keeps the bound of R26 on PC, so that PC never wraps at 0x10000. -/
def Obligations.StepKeepsPcBounded : Prop :=
  ∀ s t : State, s.PcBounded → step s = .next t → t.PcBounded

/-- The state after reset meets both. -/
def Obligations.ResetMeetsTheInvariants : Prop :=
  State.reset.Inv ∧ State.reset.PcBounded

/-- So does every machine that a load creates, for every valid configuration and ROM. -/
def Obligations.LoadedMachineMeetsTheInvariants : Prop :=
  ∀ (c : Config) (rom : List Byte) (programId : ProgramId) (m : State),
    c.valid = true → load c rom programId = .ok m → m.Inv ∧ m.PcBounded

/-- The configuration is fixed for the life of a machine (R7, R20), and in the model through a load too (log entry 8). -/
def Obligations.ConfigurationNeverChanges : Prop :=
  ∀ s t : State, step s = .next t → t.config = s.config

/-- What each piece of state is written by, over all instructions: PC by every one, with PC + 2 unless it is listed (R26);
the general registers by 6XNN to 8XYE, CXNN, DXYN, FX07 and FX65 (R21, R22); the framebuffer by 00E0 and DXYN (R33), memory by
FX33 and FX55 (R61), the stack by 2NNN and 00EE (R27), DT by FX15 and ST by FX18 (R30), `await` by FX0A (R36), I by ANNN,
FX1E, FX29 and, under its quirk, FX55 and FX65 (R24); the key latch and the program's identity by none (R34, R38);
`run_state` and `last_error` by an error only (R35, R37). The configuration by none (R7, R20), which the model holds as a
field (log entry 1). The clauses on the model's own fields rest on its choices: `randFeed` and `draws`, the source of the
draw that only CXNN takes (R160), on log entry 3; `pending`, `recurring` and `arrivals`, the events to come, which no
instruction touches, on log entry 2. -/
def Obligations.InstructionWriteSets : Prop :=
  ∀ (i : Instr) (s t : State), exec i s = .next t →
    (t.fb ≠ s.fb → i = .cls ∨ ∃ x y n, i = .drw x y n) ∧
    ((∃ a, t.memRead a ≠ s.memRead a) → ∃ x, i = .ldBVx x ∨ i = .store x) ∧
    (t.stack ≠ s.stack ∨ t.sp ≠ s.sp → i = .ret ∨ ∃ nnn, i = .call nnn) ∧
    (t.dt ≠ s.dt → ∃ x, i = .ldDtVx x) ∧
    (t.st ≠ s.st → ∃ x, i = .ldStVx x) ∧
    (t.await ≠ s.await → ∃ x, i = .ldVxK x) ∧
    (t.i ≠ s.i → (∃ nnn, i = .ldI nnn) ∨ (∃ x, i = .addIVx x ∨ i = .ldFVx x) ∨
      (s.config.quirkMemIncI = true ∧ ∃ x, i = .store x ∨ i = .load x)) ∧
    (t.v ≠ s.v →
      (∃ x nn, i = .ldByte x nn ∨ i = .addByte x nn ∨ i = .rnd x nn) ∨
      (∃ x y, i = .ldReg x y ∨ i = .or x y ∨ i = .and x y ∨ i = .xor x y ∨ i = .addReg x y ∨ i = .sub x y ∨
        i = .shr x y ∨ i = .subn x y ∨ i = .shl x y) ∨
      (∃ x y n, i = .drw x y n) ∨ ∃ x, i = .ldVxDt x ∨ i = .load x) ∧
    (t.pc ≠ s.pc + 2 →
      (∃ nnn, i = .jp nnn ∨ i = .call nnn ∨ i = .jpV0 nnn) ∨ i = .ret ∨ (∃ x, i = .ldVxK x ∧ t.pc = s.pc) ∨
      (t.pc = s.pc + 4 ∧ ((∃ x nn, i = .seByte x nn ∨ i = .sneByte x nn) ∨ (∃ x y, i = .seReg x y ∨ i = .sneReg x y) ∨
        ∃ x, i = .skp x ∨ i = .sknp x)) ∨
      ∃ e, t = HaltedWith s e) ∧
    (t.randFeed ≠ s.randFeed ∨ t.draws ≠ s.draws → ∃ x nn, i = .rnd x nn) ∧
    t.key = s.key ∧ t.programId = s.programId ∧ t.config = s.config ∧ t.pending = s.pending ∧
    t.recurring = s.recurring ∧ t.arrivals = s.arrivals ∧
    ((t.runState = s.runState ∧ t.lastError = s.lastError) ∨ ∃ e, t = HaltedWith s e)

/-- R22: which instructions can change VF: those that write it as a flag, and those that name VF as their destination. -/
def Obligations.FlagWriters : Prop :=
  ∀ (i : Instr) (s t : State), exec i s = .next t → t.v[vf] ≠ s.v[vf] →
    (∃ x y, i = .addReg x y ∨ i = .sub x y ∨ i = .subn x y ∨ i = .shr x y ∨ i = .shl x y) ∨
    (∃ x y n, i = .drw x y n) ∨
    (s.config.quirkLogicVfReset = true ∧ ∃ x y, i = .or x y ∨ i = .and x y ∨ i = .xor x y) ∨
    (s.config.addiSetsCarry = true ∧ ∃ x nn, i = .addByte x nn) ∨
    (∃ nn, i = .ldByte vf nn ∨ i = .addByte vf nn ∨ i = .rnd vf nn) ∨
    (∃ y, i = .ldReg vf y ∨ i = .or vf y ∨ i = .and vf y ∨ i = .xor vf y) ∨
    i = .ldVxDt vf ∨ i = .load vf

/-! ## Control flow -/

/-- R112: SYS always halts with UnknownOpcode of its own word 0x0NNN, whatever the mode. -/
def Obligations.SysHaltsWithItsWord : Prop :=
  ∀ (nnn : Addr12) (s : State), exec (.sys nnn) s = .next (HaltedWith s (.unknownOpcode (nnn.zeroExtend 16)))

/-- R113: JP writes its absolute target, which the next fetch never faults on, and changes nothing else. -/
def Obligations.JumpSetsPc : Prop :=
  ∀ (nnn : Addr12) (s : State), ∃ t, exec (.jp nnn) s = .next t ∧ t.pc.toNat = nnn.toNat ∧ t.pc.toNat < 0x1000 ∧
    OnlyPcChanges s t

/-- R114: CALL pushes the address after itself and jumps, or halts with StackOverflow when the stack is full. -/
def Obligations.CallPushesOrOverflows : Prop :=
  ∀ (nnn : Addr12) (s : State), s.config.valid = true →
    (s.sp = s.config.stackDepth → exec (.call nnn) s = .next (HaltedWith s (.stackOverflow s.pc))) ∧
    (s.sp < s.config.stackDepth → ∃ t, exec (.call nnn) s = .next t ∧
      t.stack[s.sp]? = some (s.pc + 2) ∧ (∀ j, j ≠ s.sp → t.stack[j]? = s.stack[j]?) ∧ t.sp = s.sp + 1 ∧
      t.pc.toNat = nnn.toNat ∧ OnlyStackChanges s t)

/-- R115: RET pops PC, as stored, and leaves the entries alone, or halts with StackUnderflow when the stack is empty. -/
def Obligations.RetPopsOrUnderflows : Prop :=
  ∀ s : State, s.config.valid = true → s.sp ≤ s.config.stackDepth →
    (s.sp = 0 → exec .ret s = .next (HaltedWith s (.stackUnderflow s.pc))) ∧
    (0 < s.sp → ∃ t, exec .ret s = .next t ∧ s.stack[s.sp - 1]? = some t.pc ∧ t.sp = s.sp - 1 ∧ t.stack = s.stack ∧
      OnlyStackChanges s t)

/-- `CALL addr; RET` returns to the instruction after the CALL with the stack depth unchanged (R115), wherever the RET
stands. -/
def Obligations.CallThenRetReturns : Prop :=
  ∀ (nnn : Addr12) (s t : State), s.config.valid = true → s.sp < s.config.stackDepth → exec (.call nnn) s = .next t →
    ∃ u, exec .ret t = .next u ∧ u.pc = s.pc + 2 ∧ u.sp = s.sp

/-- R116: BNNN adds V0, or VX with X the top nibble of NNN under its quirk, unmasked. -/
def Obligations.IndexedJump : Prop :=
  ∀ (nnn : Addr12) (s : State), ∃ t, exec (.jpV0 nnn) s = .next t ∧ OnlyPcChanges s t ∧
    (s.config.quirkJumpVx = false → t.pc.toNat = (s.v[(0 : Reg)].toNat + nnn.toNat) % 0x10000) ∧
    (s.config.quirkJumpVx = true → ∀ x : Reg, x.val = nnn.toNat / 256 → t.pc.toNat = (s.v[x].toNat + nnn.toNat) % 0x10000)

/-- R117, R118: the skips on a register and a byte. -/
def Obligations.SkipsOnByte : Prop :=
  ∀ (x : Reg) (nn : Byte) (s : State),
    (∃ t, exec (.seByte x nn) s = .next t ∧ t.pc = (if s.v[x] = nn then s.pc + 4 else s.pc + 2) ∧ OnlyPcChanges s t) ∧
    (∃ t, exec (.sneByte x nn) s = .next t ∧ t.pc = (if s.v[x] = nn then s.pc + 2 else s.pc + 4) ∧ OnlyPcChanges s t)

/-- R119, R120: the skips on two registers. -/
def Obligations.SkipsOnRegisters : Prop :=
  ∀ (x y : Reg) (s : State),
    (∃ t, exec (.seReg x y) s = .next t ∧ t.pc = (if s.v[x] = s.v[y] then s.pc + 4 else s.pc + 2) ∧ OnlyPcChanges s t) ∧
    (∃ t, exec (.sneReg x y) s = .next t ∧ t.pc = (if s.v[x] = s.v[y] then s.pc + 2 else s.pc + 4) ∧ OnlyPcChanges s t)

/-! ## Registers, arithmetic, logic -/

/-- R141, R143: the two register assignments. -/
def Obligations.RegisterAssignment : Prop :=
  ∀ (x y : Reg) (nn : Byte) (s : State),
    (∃ t, exec (.ldByte x nn) s = .next t ∧ t.pc = s.pc + 2 ∧ OnlyRegsChange s t ∧
      ∀ r : Reg, t.v[r] = if r = x then nn else s.v[r]) ∧
    (∃ t, exec (.ldReg x y) s = .next t ∧ t.pc = s.pc + 2 ∧ OnlyRegsChange s t ∧
      ∀ r : Reg, t.v[r] = if r = x then s.v[y] else s.v[r])

/-- R142: 7XNN adds mod 256 and writes the carry to VF, last, only under `ADDI_SETS_CARRY`. -/
def Obligations.AddImmediate : Prop :=
  ∀ (x : Reg) (nn : Byte) (s : State), ∃ t, exec (.addByte x nn) s = .next t ∧ t.pc = s.pc + 2 ∧ OnlyRegsChange s t ∧
    ∀ r : Reg, t.v[r].toNat =
      if s.config.addiSetsCarry = true ∧ r = vf then (if 255 < s.v[x].toNat + nn.toNat then 1 else 0)
      else if r = x then (s.v[x].toNat + nn.toNat) % 256
      else s.v[r].toNat

/-- R144, R145, R146: the three bitwise operations, which clear VF, last, only under `QUIRK_LOGIC_VF_RESET`. -/
def Obligations.BitwiseOperations : Prop :=
  ∀ (x y : Reg) (s : State),
    (∃ t, exec (.or x y) s = .next t ∧ t.pc = s.pc + 2 ∧ OnlyRegsChange s t ∧
      ∀ r : Reg, t.v[r] = if s.config.quirkLogicVfReset = true ∧ r = vf then 0
        else if r = x then s.v[x] ||| s.v[y] else s.v[r]) ∧
    (∃ t, exec (.and x y) s = .next t ∧ t.pc = s.pc + 2 ∧ OnlyRegsChange s t ∧
      ∀ r : Reg, t.v[r] = if s.config.quirkLogicVfReset = true ∧ r = vf then 0
        else if r = x then s.v[x] &&& s.v[y] else s.v[r]) ∧
    (∃ t, exec (.xor x y) s = .next t ∧ t.pc = s.pc + 2 ∧ OnlyRegsChange s t ∧
      ∀ r : Reg, t.v[r] = if s.config.quirkLogicVfReset = true ∧ r = vf then 0
        else if r = x then s.v[x] ^^^ s.v[y] else s.v[r])

/-- R147: 8XY4 adds mod 256; VF is the carry, written last. -/
def Obligations.AddWithCarry : Prop :=
  ∀ (x y : Reg) (s : State), ∃ t, exec (.addReg x y) s = .next t ∧ t.pc = s.pc + 2 ∧ OnlyRegsChange s t ∧
    ∀ r : Reg, t.v[r].toNat =
      if r = vf then (if 255 < s.v[x].toNat + s.v[y].toNat then 1 else 0)
      else if r = x then (s.v[x].toNat + s.v[y].toNat) % 256
      else s.v[r].toNat

/-- R148, R150: the subtractions wrap mod 256; VF is the NOT-borrow, 1 at equal operands, written last. -/
def Obligations.SubtractWithNotBorrow : Prop :=
  ∀ (x y : Reg) (s : State),
    (∃ t, exec (.sub x y) s = .next t ∧ t.pc = s.pc + 2 ∧ OnlyRegsChange s t ∧
      ∀ r : Reg, t.v[r].toNat =
        if r = vf then (if s.v[x].toNat ≥ s.v[y].toNat then 1 else 0)
        else if r = x then (s.v[x].toNat + 256 - s.v[y].toNat) % 256
        else s.v[r].toNat) ∧
    (∃ t, exec (.subn x y) s = .next t ∧ t.pc = s.pc + 2 ∧ OnlyRegsChange s t ∧
      ∀ r : Reg, t.v[r].toNat =
        if r = vf then (if s.v[y].toNat ≥ s.v[x].toNat then 1 else 0)
        else if r = x then (s.v[y].toNat + 256 - s.v[x].toNat) % 256
        else s.v[r].toNat)

/-- R149, R151: the shifts by one place of VX, or of VY under `QUIRK_SHIFT_SRC` = `VY`; VF is the bit shifted out,
written last. -/
def Obligations.ShiftsByOne : Prop :=
  ∀ (x y : Reg) (s : State) (b : Nat),
    b = (if s.config.quirkShiftSrc = .vx then s.v[x].toNat else s.v[y].toNat) →
    (∃ t, exec (.shr x y) s = .next t ∧ t.pc = s.pc + 2 ∧ OnlyRegsChange s t ∧
      ∀ r : Reg, t.v[r].toNat = if r = vf then b % 2 else if r = x then b / 2 else s.v[r].toNat) ∧
    (∃ t, exec (.shl x y) s = .next t ∧ t.pc = s.pc + 2 ∧ OnlyRegsChange s t ∧
      ∀ r : Reg, t.v[r].toNat = if r = vf then b / 128 else if r = x then 2 * b % 256 else s.v[r].toNat)

/-- R160: CXNN stores the masked draw, for every byte the `rand` port may hold and, where the port holds none, for the
free value, whatever it is (log entry 3). -/
def Obligations.RandomByteIsMasked : Prop :=
  ∀ (x : Reg) (nn : Byte) (s : State),
    (∀ (b : Byte) (rest : List Byte), s.randFeed = b :: rest → ∃ t, exec (.rnd x nn) s = .next t ∧ t.pc = s.pc + 2 ∧
      (∀ r : Reg, t.v[r] = if r = x then b &&& nn else s.v[r]) ∧
      t = { s with v := t.v, pc := t.pc, randFeed := rest } ∧ SameBytes s t) ∧
    (s.randFeed = [] → ∃ t, exec (.rnd x nn) s = .next t ∧ t.pc = s.pc + 2 ∧
      (∀ r : Reg, t.v[r] = if r = x then Config.randomByte s.draws &&& nn else s.v[r]) ∧
      t = { s with v := t.v, pc := t.pc, draws := s.draws + 1 } ∧ SameBytes s t)

/-! ## Display -/

/-- R180: CLS turns every pixel off and changes nothing else; VF is unchanged. -/
def Obligations.ClearScreen : Prop :=
  ∀ s : State, ∃ t, exec .cls s = .next t ∧ t.pc = s.pc + 2 ∧ (∀ px py, t.fb.pixel px py = false) ∧
    t = { s with fb := t.fb, pc := t.pc } ∧ SameBytes s t

/-- R182, R183: DRW flips exactly the pixels under the sprite's 1 bits, wrapping at both edges; VF, written last, is 1
iff one of them was on. -/
def Obligations.DrawFlipsUnderTheSprite : Prop :=
  ∀ (x y : Reg) (n : BitVec 4) (s : State), (Instr.drw x y n).wf = true →
    ∃ t, exec (.drw x y n) s = .next t ∧ t.pc = s.pc + 2 ∧
      (∀ px py, px < 64 → py < 32 →
        (s.SpriteOn x y n px py → t.fb.pixel px py = !s.fb.pixel px py) ∧
        (¬ s.SpriteOn x y n px py → t.fb.pixel px py = s.fb.pixel px py)) ∧
      ((∃ px py, s.SpriteOn x y n px py ∧ s.fb.pixel px py = true) → t.v[vf] = 1) ∧
      ((∀ px py, s.SpriteOn x y n px py → s.fb.pixel px py = false) → t.v[vf] = 0) ∧
      (∀ r : Reg, r ≠ vf → t.v[r] = s.v[r]) ∧
      t = { s with v := t.v, fb := t.fb, pc := t.pc } ∧ SameBytes s t

/-- R184: drawing the same sprite twice restores the screen; the second flag is 1 iff a 1 bit of the sprite lands on a
pixel that was off before the first draw. -/
def Obligations.DoubleDrawRestores : Prop :=
  ∀ (x y : Reg) (n : BitVec 4) (s t u : State), (Instr.drw x y n).wf = true → x ≠ vf → y ≠ vf →
    exec (.drw x y n) s = .next t → exec (.drw x y n) t = .next u →
    u.fb = s.fb ∧
    ((∃ px py, s.SpriteOn x y n px py ∧ s.fb.pixel px py = false) → u.v[vf] = 1) ∧
    ((∀ px py, s.SpriteOn x y n px py → s.fb.pixel px py = true) → u.v[vf] = 0)

/-! ## Index register and memory -/

/-- R201, R202, R204: I takes an address, a 16-bit wrapping sum, or the address of a glyph. VF is unchanged. -/
def Obligations.IndexRegister : Prop :=
  ∀ (nnn : Addr12) (x : Reg) (s : State),
    (∃ t, exec (.ldI nnn) s = .next t ∧ t.pc = s.pc + 2 ∧ t.i.toNat = nnn.toNat ∧ OnlyIndexChanges s t) ∧
    (∃ t, exec (.addIVx x) s = .next t ∧ t.pc = s.pc + 2 ∧ t.i.toNat = (s.i.toNat + s.v[x].toNat) % 0x10000 ∧
      OnlyIndexChanges s t) ∧
    (∃ t, exec (.ldFVx x) s = .next t ∧ t.pc = s.pc + 2 ∧ t.i.toNat = 5 * (s.v[x].toNat % 16) ∧ OnlyIndexChanges s t)

/-- R206: FX33 stores the decimal digits of VX, hundreds at I, or halts with the first forbidden address and no byte
written. -/
def Obligations.BcdStore : Prop :=
  ∀ (x : Reg) (s : State), Memory.wf s.config.font s.mem = true →
    ((∀ k, k < 3 → ¬ s.StrictForbids (s.i.toNat + k)) → ∃ t, exec (.ldBVx x) s = .next t ∧ t.pc = s.pc + 2 ∧
      BlockStored s t 3 (fun k => BitVec.ofNat 8
        (if k = 0 then s.v[x].toNat / 100 else if k = 1 then s.v[x].toNat / 10 % 10 else s.v[x].toNat % 10)) ∧
      t = { s with mem := t.mem, pc := t.pc }) ∧
    (∀ k, s.FirstForbidden 3 k →
      exec (.ldBVx x) s = .next (HaltedWith s (.strictWriteViolation (BitVec.ofNat 16 (s.i.toNat + k)))))

/-- R208: FX55 stores V0 to VX from I on and moves I only under its quirk, or halts with the first forbidden address and
no byte written. -/
def Obligations.BlockStore : Prop :=
  ∀ (x : Reg) (s : State), Memory.wf s.config.font s.mem = true →
    ((∀ k, k < x.val + 1 → ¬ s.StrictForbids (s.i.toNat + k)) → ∃ t, exec (.store x) s = .next t ∧ t.pc = s.pc + 2 ∧
      BlockStored s t (x.val + 1) (fun k => (s.v[k]?).getD 0) ∧
      t.i.toNat = (if s.config.quirkMemIncI = true then (s.i.toNat + x.val + 1) % 0x10000 else s.i.toNat) ∧
      t = { s with mem := t.mem, i := t.i, pc := t.pc }) ∧
    (∀ k, s.FirstForbidden (x.val + 1) k →
      exec (.store x) s = .next (HaltedWith s (.strictWriteViolation (BitVec.ofNat 16 (s.i.toNat + k)))))

/-- R210: FX65 loads V0 to VX from I on, in either mode, and moves I only under its quirk. -/
def Obligations.BlockLoad : Prop :=
  ∀ (x : Reg) (s : State), ∃ t, exec (.load x) s = .next t ∧ t.pc = s.pc + 2 ∧
    (∀ r : Reg, t.v[r] = if r.val ≤ x.val then s.memRead (s.i.toNat + r.val) else s.v[r]) ∧
    t.i.toNat = (if s.config.quirkMemIncI = true then (s.i.toNat + x.val + 1) % 0x10000 else s.i.toNat) ∧
    t = { s with v := t.v, i := t.i, pc := t.pc } ∧ SameBytes s t

/-- A store over the bytes at the next PC is what the next fetch reads (R76). -/
def Obligations.StoreIsSeenByTheNextFetch : Prop :=
  ∀ (x : Reg) (s t : State) (k : Nat), Memory.wf s.config.font s.mem = true → exec (.store x) s = .next t →
    t.runState = .running → s.pc.toNat + 2 = s.i.toNat + k → k < x.val → s.pc.toNat + 2 < 0x1000 →
    t.fetch = .ok (wordOfBytes ((s.v[k]?).getD 0) ((s.v[k + 1]?).getD 0))

/-! ## Timers and keypad -/

/-- R230, R231, R232: the timer accesses. -/
def Obligations.TimerAccess : Prop :=
  ∀ (x : Reg) (s : State),
    (∃ t, exec (.ldVxDt x) s = .next t ∧ t.pc = s.pc + 2 ∧ OnlyRegsChange s t ∧
      ∀ r : Reg, t.v[r] = if r = x then s.dt else s.v[r]) ∧
    (∃ t, exec (.ldDtVx x) s = .next t ∧ t.pc = s.pc + 2 ∧ t.dt = s.v[x] ∧ t = { s with dt := t.dt, pc := t.pc } ∧
      SameBytes s t) ∧
    (∃ t, exec (.ldStVx x) s = .next t ∧ t.pc = s.pc + 2 ∧ t.st = s.v[x] ∧ t = { s with st := t.st, pc := t.pc } ∧
      SameBytes s t ∧ (t.soundOn = true ↔ s.v[x] ≠ 0))

/-- R240, R241, R242: the key skips, on the key that the low nibble of VX names. -/
def Obligations.SkipsOnKey : Prop :=
  ∀ (x : Reg) (s : State) (k : Key), k.val = s.v[x].toNat % 16 →
    (∃ t, exec (.skp x) s = .next t ∧ t.pc = (if s.key[k] = true then s.pc + 4 else s.pc + 2) ∧ OnlyPcChanges s t) ∧
    (∃ t, exec (.sknp x) s = .next t ∧ t.pc = (if s.key[k] = true then s.pc + 2 else s.pc + 4) ∧ OnlyPcChanges s t)

/-- R250: FX0A begins a wait with PC at its own address; during the wait cycles do nothing and ticks still count; the
first new press ends it with the key in VX and PC past the FX0A; nothing but a new press, or a load, ends it. -/
def Obligations.WaitForKey : Prop :=
  ∀ (x : Reg) (s : State), s.runState = .running → s.await = none →
    ∃ t, exec (.ldVxK x) s = .next t ∧ t = { s with await := some x } ∧
      step (t.withEvent .cycle) = .next t ∧
      step (t.withEvent .tick) = .next { t with
        dt := BitVec.ofNat 8 (s.dt.toNat - 1), st := BitVec.ofNat 8 (s.st.toNat - 1) } ∧
      (∀ batch, (∀ k, ¬ NewPress s.key batch k) →
        step (t.withEvent (.keys batch)) = .next { t with key := latchAfter s.key batch }) ∧
      (∀ k : Key, s.key[k] = false → ∃ u, step (t.withEvent (.keys [(k, true)])) = .next u ∧
        u.await = none ∧ u.pc = s.pc + 2 ∧ u.key = latchAfter s.key [(k, true)] ∧
        (∀ r : Reg, u.v[r] = if r = x then BitVec.ofNat 8 k.val else s.v[r]) ∧
        u = { s with v := u.v, pc := u.pc, key := u.key }) ∧
      (∀ e u, step (t.withEvent e) = .next u → u.await = none →
        (∃ batch k, e = .keys batch ∧ NewPress s.key batch k) ∨ ∃ rom programId, e = .load rom programId)

/-! ## Events -/

/-- R270, R271: a tick counts each nonzero timer down by 1 while Running, in a wait or not, and does nothing otherwise. -/
def Obligations.TimerTick : Prop :=
  ∀ s : State,
    (s.runState = .running → ∃ t, step (s.withEvent .tick) = .next t ∧
      t.dt.toNat = s.dt.toNat - 1 ∧ t.st.toNat = s.st.toNat - 1 ∧ t = { s with dt := t.dt, st := t.st }) ∧
    (s.runState ≠ .running → step (s.withEvent .tick) = .next s)

/-- A Running machine with `n` ticks ahead of it has, `n` steps later, each timer down by `n` and clamped at 0, and
nothing else changed (R270). The list the ticks stand in is the model's choice of form (log entry 2). -/
def Obligations.TicksCountDownAndClamp : Prop :=
  ∀ (n : Nat) (s : State) (rest : List Event), s.runState = .running → s.pending = List.replicate n Event.tick ++ rest →
    ∃ t, steps n s = .next t ∧ t.dt.toNat = s.dt.toNat - n ∧ t.st.toNat = s.st.toNat - n ∧
      t = { s with dt := t.dt, st := t.st, pending := rest }

/-- R285, R286, R287: a key batch sets the latch in list order; while Running in a wait, the lowest key newly pressed in
the batch goes to VX, PC moves past the FX0A and the wait ends; otherwise the latch is all that changes; Halted and
Stopped machines ignore it. -/
def Obligations.KeyBatch : Prop :=
  ∀ (batch : List (Key × Bool)) (s : State),
    (s.runState = .halted ∨ s.runState = .stopped → step (s.withEvent (.keys batch)) = .next s) ∧
    (s.runState = .running ∨ s.runState = .paused →
      ∃ t, step (s.withEvent (.keys batch)) = .next t ∧ t.key = latchAfter s.key batch ∧
        (∀ (x : Reg) (k : Key), s.runState = .running → s.await = some x → NewPress s.key batch k →
          (∀ j, NewPress s.key batch j → k ≤ j) →
          t.await = none ∧ t.pc = s.pc + 2 ∧ (∀ r : Reg, t.v[r] = if r = x then BitVec.ofNat 8 k.val else s.v[r]) ∧
          t = { s with v := t.v, pc := t.pc, key := t.key, await := none }) ∧
        (s.runState = .paused ∨ s.await = none ∨ (∀ k, ¬ NewPress s.key batch k) → t = { s with key := t.key }))

/-- R275: the run-state transitions, row by row. -/
def Obligations.RunStateTransitions : Prop :=
  ∀ s : State,
    step (s.withEvent .pauseToggle) = .next { s with runState :=
      match s.runState with
      | .running => .paused
      | .paused => .running
      | .halted => .halted
      | .stopped => .stopped } ∧
    step (s.withEvent .quit) = .next { s with runState :=
      match s.runState with
      | .running => .stopped
      | .paused => .stopped
      | .halted => .halted
      | .stopped => .stopped } ∧
    (∀ t, step (s.withEvent .cycle) = .next t →
      t.runState = s.runState ∨ (s.runState = .running ∧ ∃ e, t = HaltedWith s e)) ∧
    (∀ t, step (s.withEvent .tick) = .next t → t.runState = s.runState) ∧
    (∀ batch t, step (s.withEvent (.keys batch)) = .next t → t.runState = s.runState) ∧
    (∀ t, step (s.withEvent .loadUnreadable) = .next t → t.runState = s.runState) ∧
    (∀ rom programId t, rom.length ≤ 3584 → step (s.withEvent (.load rom programId)) = .next t → t.runState = .running)

/-- Halted and Stopped are terminal: no event but a successful load changes anything (R275, R296). -/
def Obligations.HaltedAndStoppedAreTerminal : Prop :=
  ∀ (s : State) (e : Event), s.runState = .halted ∨ s.runState = .stopped →
    (∀ rom programId, e = .load rom programId → 3584 < rom.length) → step (s.withEvent e) = .next s

/-- R276: while Paused, cycles and ticks have no effect, and key batches set the latch and change nothing else. -/
def Obligations.PausedFreezesTheMachine : Prop :=
  ∀ s : State, s.runState = .paused →
    step (s.withEvent .cycle) = .next s ∧ step (s.withEvent .tick) = .next s ∧
    ∀ batch, step (s.withEvent (.keys batch)) = .next { s with key := latchAfter s.key batch }

/-! ## Load and reset -/

/-- R301: every ROM of at most 3584 bytes loads, with PC 0x200; a longer one is RomTooLarge, and no machine exists; the
empty one halts in its first cycle, with UnknownOpcode of the word 0x0000. -/
def Obligations.RomSizes : Prop :=
  ∀ (c : Config) (rom : List Byte) (programId : ProgramId),
    (rom.length ≤ 3584 → ∃ m, load c rom programId = .ok m ∧ m.pc = 0x200 ∧
      ∀ k, k < rom.length → some (m.memRead (0x200 + k)) = rom[k]?) ∧
    (3584 < rom.length → load c rom programId = .error (.romTooLarge rom.length)) ∧
    (rom = [] → ∃ m, load c rom programId = .ok m ∧
      step (m.withEvent .cycle) = .next (HaltedWith m (.unknownOpcode 0x0000)))

/-- A loaded machine, field by field (R300, R40), with its whole memory, and the configuration it was loaded under, which
the model holds as a field (log entry 1). -/
def Obligations.LoadedMachine : Prop :=
  ∀ (c : Config) (rom : List Byte) (programId : ProgramId) (m : State), load c rom programId = .ok m →
    (∀ d k : Nat, (hd : d < 16) → (hk : k < 5) → m.memRead (5 * d + k) = (c.font[d])[k]) ∧
    (∀ a, 0x050 ≤ a → a < 0x200 → m.memRead a = 0) ∧
    (∀ k, k < rom.length → some (m.memRead (0x200 + k)) = rom[k]?) ∧
    (∀ a, 0x200 + rom.length ≤ a → a < 0x1000 → m.memRead a = 0) ∧
    (∀ r : Reg, m.v[r] = 0) ∧ m.i = 0 ∧ m.pc = 0x200 ∧ m.sp = 0 ∧ (∀ j : Fin 16, m.stack[j] = 0) ∧ m.dt = 0 ∧ m.st = 0 ∧
    (∀ px py, m.fb.pixel px py = false) ∧ (∀ k : Key, m.key[k] = false) ∧ m.runState = .running ∧ m.await = none ∧
    m.lastError = none ∧ m.programId = programId ∧ m.config = c

/-- R303, R304: a load on a machine replaces its whole record, whatever its run state; a failed one leaves it alone. The
events and random bytes still to come are the host's, and stay (log entry 8). -/
def Obligations.LoadReplacesOrLeaves : Prop :=
  ∀ (s : State) (rom : List Byte) (programId : ProgramId),
    (∀ m, load s.config rom programId = .ok m →
      step (s.withEvent (.load rom programId)) =
        .next { m with
          pending := s.pending, recurring := s.recurring, arrivals := s.arrivals, randFeed := s.randFeed,
          draws := s.draws }) ∧
    (∀ e, load s.config rom programId = .error e → step (s.withEvent (.load rom programId)) = .next s) ∧
    step (s.withEvent .loadUnreadable) = .next s

/-- The state after reset is the machine that a load of the empty ROM creates under the default configuration; the empty
ROM and identity 0 are the model's choice (log entry 4). -/
def Obligations.ResetIsALoadOfTheEmptyRom : Prop :=
  load Config.default [] 0 = .ok State.reset

/-- R39 and R260: each field of the status view, for every value of the state it shows; and, in a machine that meets the
invariant, an error code is shown exactly when the machine is Halted (R37), a run-time error, and never beside a wait. -/
def Obligations.StatusViewIsConsistent : Prop :=
  ∀ s : State,
    (s.status.runState = 0 ↔ s.runState = .running) ∧ (s.status.runState = 1 ↔ s.runState = .paused) ∧
    (s.status.runState = 2 ↔ s.runState = .halted) ∧ (s.status.runState = 3 ↔ s.runState = .stopped) ∧
    (s.status.awaitValid = 1 ↔ s.await.isSome = true) ∧
    (∀ x : Reg, s.await = some x → s.status.awaitReg.toNat = x.val) ∧
    (s.await = none → s.status.awaitReg = 0) ∧
    (s.lastError = none → s.status.lastError = 0 ∧ s.status.errorInfo = 0) ∧
    (∀ pc0, s.lastError = some (.stackOverflow pc0) → s.status.lastError = 3 ∧ s.status.errorInfo = pc0) ∧
    (∀ pc0, s.lastError = some (.stackUnderflow pc0) → s.status.lastError = 4 ∧ s.status.errorInfo = pc0) ∧
    (∀ pc, s.lastError = some (.fetchOutOfBounds pc) → s.status.lastError = 5 ∧ s.status.errorInfo = pc) ∧
    (∀ w, s.lastError = some (.unknownOpcode w) → s.status.lastError = 6 ∧ s.status.errorInfo = w) ∧
    (∀ ea, s.lastError = some (.strictWriteViolation ea) → s.status.lastError = 7 ∧ s.status.errorInfo = ea) ∧
    (s.status.soundOn = 1 ↔ s.st ≠ 0) ∧
    (s.Inv →
      (s.status.lastError ≠ 0 ↔ s.status.runState = 2) ∧
      (s.status.lastError ≠ 0 → s.status.awaitValid = 0 ∧ 3 ≤ s.status.lastError.toNat))

/-! ## The schedule -/

/-- Which event a step applies (log entry 2): the oldest pending one (R282), else the next of a periodic host, which comes
round again, else the free arrival, of which nothing is known (R8, R281). -/
def Obligations.StepAppliesTheNextEvent : Prop :=
  ∀ s : State,
    (∀ e rest, s.pending = e :: rest → step s = State.applyEvent { s with pending := rest } e) ∧
    (∀ e rest, s.pending = [] → s.recurring = e :: rest →
      step s = State.applyEvent { s with recurring := rest ++ [e] } e) ∧
    (s.pending = [] → s.recurring = [] →
      step s = State.applyEvent { s with arrivals := s.arrivals + 1 } (Config.arrival s.arrivals))

/-- The schedule of ticks without end is a run (R281): a Running machine whose host delivers ticks over and over has, after
any number of steps, its timers counted down and clamped at 0 (R270), nothing else changed, and the next tick due. The list
of recurring events and the event due from it are the model's choice of form (log entry 2), not the spec's. -/
def Obligations.TicksWithoutEnd : Prop :=
  ∀ (n : Nat) (s : State), s.runState = .running → s.pending = [] → s.recurring = [.tick] →
    ∃ t, steps n s = .next t ∧ t.dueEvent = .tick ∧ t.dt.toNat = s.dt.toNat - n ∧ t.st.toNat = s.st.toNat - n ∧
      t = { s with dt := t.dt, st := t.st }
end

