-- ==== Sys2Proof/Laws/Memory.lean ====
section
/-! SUPPORT. Memory: every operation keeps the canonical form; a read after a write gives the byte written, and every
other address reads as before. -/

namespace Sys2Proof.Machine

theorem Memory.wfFrom_mono (font : Font) (m : Memory) {lo lo' : Nat} (h : lo' ≤ lo) (hm : Memory.wfFrom font lo m = true) :
    Memory.wfFrom font lo' m = true := by
  cases m with
  | nil => rfl
  | cons c rest =>
    obtain ⟨a, b⟩ := c
    simp only [Memory.wfFrom, Bool.and_eq_true, decide_eq_true_eq] at hm ⊢
    exact ⟨⟨⟨le_trans h hm.1.1.1, hm.1.1.2⟩, hm.1.2⟩, hm.2⟩

theorem Memory.cons_wfFrom (font : Font) {lo a : Nat} (b : Byte) {m : Memory} (hlo : lo ≤ a) (ha : a < 0x1000)
    (hm : Memory.wfFrom font (a + 1) m = true) : Memory.wfFrom font lo (Memory.cons font a b m) = true := by
  unfold Memory.cons
  split
  · exact Memory.wfFrom_mono font m (by omega) hm
  · next hne =>
    simp only [Memory.wfFrom, Bool.and_eq_true, decide_eq_true_eq]
    exact ⟨⟨⟨hlo, ha⟩, hne⟩, hm⟩

theorem Memory.write_wfFrom (font : Font) (m : Memory) {lo a : Nat} (b : Byte) (hlo : lo ≤ a) (ha : a < 0x1000)
    (hm : Memory.wfFrom font lo m = true) : Memory.wfFrom font lo (Memory.write font m a b) = true := by
  induction m generalizing lo with
  | nil => exact Memory.cons_wfFrom font b hlo ha rfl
  | cons c rest ih =>
    obtain ⟨k, d⟩ := c
    have hm' := hm
    simp only [Memory.wfFrom, Bool.and_eq_true, decide_eq_true_eq] at hm'
    obtain ⟨⟨⟨hk, hk'⟩, hd⟩, hrest⟩ := hm'
    unfold Memory.write
    split
    · next hlt =>
      refine Memory.cons_wfFrom font b hlo ha ?_
      simp only [Memory.wfFrom, Bool.and_eq_true, decide_eq_true_eq]
      exact ⟨⟨⟨hlt, hk'⟩, hd⟩, hrest⟩
    · split
      · next heq =>
        subst heq
        exact Memory.cons_wfFrom font b hlo ha hrest
      · simp only [Memory.wfFrom, Bool.and_eq_true, decide_eq_true_eq]
        exact ⟨⟨⟨hk, hk'⟩, hd⟩, ih (by omega) hrest⟩

theorem Memory.ofBytes_wfFrom (font : Font) (bs : List Byte) {lo a : Nat} (hlo : lo ≤ a) (ha : a + bs.length ≤ 0x1000) :
    Memory.wfFrom font lo (Memory.ofBytes font a bs) = true := by
  induction bs generalizing lo a with
  | nil => rfl
  | cons b bs ih =>
    simp only [List.length_cons] at ha
    exact Memory.cons_wfFrom font b hlo (by omega) (ih (le_refl _) (by omega))

/-- An address below every cell reads as unlisted. -/
theorem Memory.read_below (font : Font) (m : Memory) {lo a : Nat} (h : a < lo) (hm : Memory.wfFrom font lo m = true) :
    Memory.read font m a = Memory.unlisted font a := by
  induction m generalizing lo with
  | nil => rfl
  | cons c rest ih =>
    obtain ⟨k, d⟩ := c
    simp only [Memory.wfFrom, Bool.and_eq_true, decide_eq_true_eq] at hm
    rw [Memory.read, if_neg (by omega)]
    exact ih (lo := k + 1) (by omega) hm.2

theorem Memory.read_cons (font : Font) {a : Nat} (b : Byte) {m : Memory} (a' : Nat)
    (hm : Memory.wfFrom font (a + 1) m = true) :
    Memory.read font (Memory.cons font a b m) a' = if a' = a then b else Memory.read font m a' := by
  unfold Memory.cons
  split
  · next hb =>
    split
    · next ha =>
      subst ha
      rw [Memory.read_below font m (Nat.lt_succ_self _) hm, hb]
    · rfl
  · rfl

/-- Read after write, the same address and any other. -/
theorem Memory.read_write (font : Font) (m : Memory) {lo : Nat} (a a' : Nat) (b : Byte)
    (hm : Memory.wfFrom font lo m = true) :
    Memory.read font (Memory.write font m a b) a' = if a' = a then b else Memory.read font m a' := by
  induction m generalizing lo with
  | nil => exact Memory.read_cons font b a' rfl
  | cons c rest ih =>
    obtain ⟨k, d⟩ := c
    have hm' := hm
    simp only [Memory.wfFrom, Bool.and_eq_true, decide_eq_true_eq] at hm'
    obtain ⟨⟨⟨hk, hk'⟩, hd⟩, hrest⟩ := hm'
    unfold Memory.write
    split
    · next hlt =>
      refine Memory.read_cons font b a' ?_
      simp only [Memory.wfFrom, Bool.and_eq_true, decide_eq_true_eq]
      exact ⟨⟨⟨hlt, hk'⟩, hd⟩, hrest⟩
    · split
      · next heq =>
        subst heq
        rw [Memory.read_cons font b a' hrest]
        simp only [Memory.read]
        split <;> rfl
      · next hne =>
        simp only [Memory.read, ih hrest]
        split
        · next h =>
          subst h
          rw [if_neg (Ne.symm hne)]
        · rfl

theorem Memory.read_ofBytes (font : Font) (bs : List Byte) (a a' : Nat) (h : a + bs.length ≤ 0x1000) :
    Memory.read font (Memory.ofBytes font a bs) a' =
      if a ≤ a' then (bs[a' - a]?).getD (Memory.unlisted font a') else Memory.unlisted font a' := by
  induction bs generalizing a with
  | nil => simp [Memory.ofBytes, Memory.read]
  | cons b bs ih =>
    simp only [List.length_cons] at h
    rw [Memory.ofBytes, Memory.read_cons font b a' (Memory.ofBytes_wfFrom font bs (le_refl _) (by omega)),
      ih (a + 1) (by omega)]
    rcases Nat.lt_trichotomy a a' with hlt | heq | hgt
    · obtain ⟨d, hd⟩ : ∃ d, a' - a = d + 1 := ⟨a' - a - 1, by omega⟩
      have hd' : a' - (a + 1) = d := by omega
      simp [Nat.succ_le_of_lt hlt, Nat.le_of_lt hlt, Nat.ne_of_gt hlt, hd, hd']
    · subst heq
      simp
    · simp [Nat.not_le_of_lt hgt, Nat.not_le_of_lt (Nat.lt_succ_of_lt hgt), Nat.ne_of_lt hgt]

/-! ## The memory of a state -/

theorem State.poke_wf (s : State) (ea : Nat) (b : Byte) (h : Memory.wf s.config.font s.mem = true) :
    Memory.wf (s.poke ea b).config.font (s.poke ea b).mem = true :=
  Memory.write_wfFrom s.config.font s.mem b (Nat.zero_le _) (Nat.mod_lt _ (by decide)) h

theorem State.memRead_poke (s : State) (ea a : Nat) (b : Byte) (h : Memory.wf s.config.font s.mem = true) :
    (s.poke ea b).memRead a = if a % 0x1000 = ea % 0x1000 then b else s.memRead a :=
  Memory.read_write s.config.font s.mem (ea % 0x1000) (a % 0x1000) b h

/-- Everything a checked write can do (R65). -/
theorem State.memWrite_cases (s : State) (ea : Nat) (b : Byte) :
    (s.writeForbidden ea = true ∧ s.memWrite ea b = .error (.strictWriteViolation (BitVec.ofNat 16 ea))) ∨
    (s.writeForbidden ea = false ∧ s.memWrite ea b = .ok (s.poke ea b)) := by
  unfold State.memWrite
  cases h : s.writeForbidden ea
  · exact .inr ⟨rfl, rfl⟩
  · exact .inl ⟨rfl, rfl⟩

/-- A block store that answers has changed memory only, and kept its form. -/
theorem State.storeBytes_frame {s t : State} {ea : Nat} {bs : List Byte} (h : s.storeBytes ea bs = .ok t) :
    t = { s with mem := t.mem } ∧
      (Memory.wf s.config.font s.mem = true → Memory.wf s.config.font t.mem = true) := by
  induction bs generalizing s ea with
  | nil =>
    obtain rfl : s = t := Except.ok.inj h
    exact ⟨rfl, id⟩
  | cons b bs ih =>
    rw [State.storeBytes] at h
    rcases s.memWrite_cases ea b with ⟨-, hw⟩ | ⟨-, hw⟩
    · rw [hw] at h
      cases h
    · rw [hw] at h
      obtain ⟨ht, hwf⟩ := ih h
      exact ⟨ht, fun hs => hwf (s.poke_wf ea b hs)⟩

/-- The only error of a block store is a strict-mode violation. -/
theorem State.storeBytes_error {s : State} {ea : Nat} {bs : List Byte} {e : CoreError} (h : s.storeBytes ea bs = .error e) :
    ∃ w, e = .strictWriteViolation w := by
  induction bs generalizing s ea with
  | nil => cases h
  | cons b bs ih =>
    rw [State.storeBytes] at h
    rcases s.memWrite_cases ea b with ⟨-, hw⟩ | ⟨-, hw⟩
    · rw [hw] at h
      exact ⟨_, (Except.error.inj h).symm⟩
    · rw [hw] at h
      exact ih h

theorem State.readBytes_length (s : State) (ea n : Nat) : (s.readBytes ea n).length = n := by
  induction n generalizing ea with
  | zero => rfl
  | succ n ih => simp [State.readBytes, ih]

theorem State.readBytes_get (s : State) (ea n k : Nat) (h : k < n) : (s.readBytes ea n)[k]? = some (s.memRead (ea + k)) := by
  induction n generalizing ea k with
  | zero => omega
  | succ n ih =>
    cases k with
    | zero => rfl
    | succ k =>
      simp only [State.readBytes, List.getElem?_cons_succ]
      rw [ih (ea + 1) k (by omega), Nat.add_right_comm, Nat.add_assoc]

end Sys2Proof.Machine
end

