-- ==== Sys2Proof/Laws/Ops.lean ====
section
/-! SUPPORT. One lemma for each shared operation that says everything it can do, for proofs to cite instead of
unfolding it. -/

namespace Sys2Proof.Machine

/-- The execution part of a cycle ends in one of two ways (R100, R14). -/
theorem State.execute_cases (s : State) (rule : State → Except CoreError State) :
    (∃ t, rule s.advance = .ok t ∧ s.execute rule = .next t) ∨
    (∃ e, rule s.advance = .error e ∧ s.execute rule = .next (s.raise e)) := by
  unfold State.execute
  cases h : rule s.advance with
  | ok t => exact .inl ⟨t, rfl, rfl⟩
  | error e => exact .inr ⟨e, rfl, rfl⟩

/-- Everything a push can do (R28). -/
theorem State.push_cases (s : State) (pc0 a : Word) :
    (s.sp = s.config.stackDepth ∧ s.push pc0 a = .error (.stackOverflow pc0)) ∨
    (s.sp ≠ s.config.stackDepth ∧
      s.push pc0 a = .ok { s with stack := s.stack.setIfInBounds s.sp a, sp := s.sp + 1 }) := by
  unfold State.push
  by_cases h : s.sp = s.config.stackDepth
  · exact .inl ⟨h, if_pos h⟩
  · exact .inr ⟨h, if_neg h⟩

/-- Everything a pop can do (R28). -/
theorem State.pop_cases (s : State) (pc0 : Word) :
    (s.sp = 0 ∧ s.pop pc0 = .error (.stackUnderflow pc0)) ∨
    (s.sp ≠ 0 ∧ s.pop pc0 = .ok ((s.stack[s.sp - 1]?).getD 0, { s with sp := s.sp - 1 })) := by
  unfold State.pop
  by_cases h : s.sp = 0
  · exact .inl ⟨h, if_pos h⟩
  · exact .inr ⟨h, if_neg h⟩

/-- Everything a fetch can do (R66). -/
theorem State.fetch_cases (s : State) :
    (0x1000 ≤ s.pc.toNat ∧ s.fetch = .error (.fetchOutOfBounds s.pc)) ∨
    (s.pc.toNat < 0x1000 ∧ s.fetch = .ok (wordOfBytes (s.memRead s.pc.toNat) (s.memRead (s.pc.toNat + 1)))) := by
  unfold State.fetch
  by_cases h : 0x1000 ≤ s.pc.toNat
  · exact .inl ⟨h, if_pos h⟩
  · exact .inr ⟨Nat.lt_of_not_le h, if_neg h⟩

/-- Everything a cycle can do (R100): nothing, halt on a fetch or decode error, or run the decoded instruction. -/
theorem State.cycle_cases (s : State) :
    ((s.runState ≠ .running ∨ s.await.isSome = true) ∧ s.cycle = .next s) ∨
    (s.runState = .running ∧ s.await = none ∧
      ((∃ e, s.fetch = .error e ∧ s.cycle = .next (s.raise e)) ∨
       (∃ w, s.fetch = .ok w ∧
        ((∃ u, decode w = .error (.unknownOpcode u) ∧ s.cycle = .next (s.raise (.unknownOpcode u))) ∨
         (∃ i, decode w = .ok i ∧ s.cycle = exec i s))))) := by
  unfold State.cycle
  cases hr : s.runState with
  | running =>
    cases ha : s.await with
    | some x => exact .inl ⟨.inr rfl, rfl⟩
    | none =>
      refine .inr ⟨rfl, rfl, ?_⟩
      simp only [State.runInstruction]
      cases hf : s.fetch with
      | error e => exact .inl ⟨e, rfl, rfl⟩
      | ok w =>
        refine .inr ⟨w, rfl, ?_⟩
        simp only
        cases hd : decode w with
        | error r =>
          cases r with
          | unknownOpcode u => exact .inl ⟨u, rfl, rfl⟩
        | ok i => exact .inr ⟨i, rfl, rfl⟩
  | paused => exact .inl ⟨.inl (by simp), rfl⟩
  | halted => exact .inl ⟨.inl (by simp), rfl⟩
  | stopped => exact .inl ⟨.inl (by simp), rfl⟩

/-- A step applies the oldest pending event, else the next of a periodic host, else a free one. -/
theorem step_cases (s : State) :
    (∃ e rest, s.pending = e :: rest ∧ step s = State.applyEvent { s with pending := rest } e) ∨
    (∃ e rest, s.pending = [] ∧ s.recurring = e :: rest ∧
      step s = State.applyEvent { s with recurring := rest ++ [e] } e) ∨
    (s.pending = [] ∧ s.recurring = [] ∧
      step s = State.applyEvent { s with arrivals := s.arrivals + 1 } (Config.arrival s.arrivals)) := by
  unfold step State.nextEvent State.dueEvent State.takeEvent
  cases hp : s.pending with
  | cons e rest => exact .inl ⟨e, rest, rfl, rfl⟩
  | nil =>
    cases hr : s.recurring with
    | cons e rest => exact .inr (.inl ⟨e, rest, rfl, rfl, rfl⟩)
    | nil => exact .inr (.inr ⟨rfl, rfl, rfl⟩)

/-- A load gives a machine or a RomTooLarge (R300, R301). -/
theorem load_cases (c : Config) (rom : List Byte) (programId : ProgramId) :
    (maxRomSize < rom.length ∧ load c rom programId = .error (.romTooLarge rom.length)) ∨
    (rom.length ≤ maxRomSize ∧ load c rom programId =
      .ok { State.reset with mem := Memory.ofBytes c.font 0x200 rom, programId := programId, config := c }) := by
  unfold load
  by_cases h : maxRomSize < rom.length
  · exact .inl ⟨h, if_pos h⟩
  · exact .inr ⟨Nat.le_of_not_lt h, if_neg h⟩

/-- A key batch's wait part (R286): it ends the wait of a Running machine on a new press, or does nothing. -/
theorem State.resolveWait_cases (s : State) (pressed : List Key) :
    (∃ x k, s.runState = .running ∧ s.await = some x ∧ lowestKey pressed = some k ∧ s.resolveWait pressed = s.endWait x k) ∨
    ((s.runState ≠ .running ∨ s.await = none ∨ lowestKey pressed = none) ∧ s.resolveWait pressed = s) := by
  unfold State.resolveWait
  cases hr : s.runState <;> cases ha : s.await <;> cases hk : lowestKey pressed <;> simp

/-- `lowestKey` is the least element (R286, R287). -/
theorem lowestKey_spec (ks : List Key) :
    (ks = [] ∧ lowestKey ks = none) ∨ (∃ k, lowestKey ks = some k ∧ k ∈ ks ∧ ∀ j ∈ ks, k ≤ j) := by
  induction ks with
  | nil => exact .inl ⟨rfl, rfl⟩
  | cons k rest ih =>
    right
    rcases ih with ⟨rfl, h⟩ | ⟨m, h, hm, hle⟩
    · exact ⟨k, by simp [lowestKey], by simp, by simp⟩
    · by_cases hk : k ≤ m
      · exact ⟨k, by simp [lowestKey, h, hk], by simp, by
          intro j hj
          rcases List.mem_cons.mp hj with rfl | hj
          · exact le_refl _
          · exact le_trans hk (hle j hj)⟩
      · exact ⟨m, by simp [lowestKey, h, hk], by simp [hm], by
          intro j hj
          rcases List.mem_cons.mp hj with rfl | hj
          · exact le_of_not_ge hk
          · exact hle j hj⟩

/-! ## Framebuffer -/

/-- A flip changes the one pixel it names. -/
theorem Framebuffer.pixel_flip (fb : Framebuffer) (x y px py : Nat) :
    (fb.flip x y).pixel px py = (fb.pixel px py ^^ (decide (px % 64 = x % 64) && decide (py % 32 = y % 32))) := by
  simp only [Framebuffer.flip, Framebuffer.pixel, Vector.getElem_set]
  by_cases hy : y % 32 = py % 32
  · by_cases hx : x % 64 = px % 64
    · simp [hy, hx]
    · simp [hy, hx, Ne.symm hx]
  · simp [hy, Ne.symm hy]

theorem Framebuffer.pixel_clear (x y : Nat) : Framebuffer.clear.pixel x y = false := by
  simp [Framebuffer.pixel, Framebuffer.clear]

end Sys2Proof.Machine
end

