-- ==== Sys2Proof/Laws/PerInstr.lean ====
section
/-! SUPPORT. Statements about instructions as syntax, one lemma a constructor. EncodingRow: the word that `encode` gives
has the fixed bits of the instruction's row of R84. -/

namespace Sys2Proof.Laws.EncodingRow

/-- The encoded word masked by the row's mask is the row's match. -/
def Statement (i : Instr) : Prop := encode i &&& i.row.mask = i.row.matchBits

theorem field_and_F (f : BitVec 4) : f &&& 0xF#4 = f := by
  rw [show 0xF#4 = BitVec.allOnes 4 from by decide, BitVec.and_allOnes]

theorem wordA_and_F000 (op : BitVec 4) (nnn : Addr12) : wordA op nnn &&& 0xF000#16 = op ++ 0#12 := by
  rw [wordA, show 0xF000#16 = (0xF#4 ++ 0#12 : BitVec 16) from by decide, BitVec.and_append, field_and_F, BitVec.and_zero]

theorem wordXNN_and_F000 (op : BitVec 4) (x : Reg) (nn : Byte) : wordXNN op x nn &&& 0xF000#16 = op ++ 0#12 :=
  wordA_and_F000 op (fieldOfReg x ++ nn)

theorem wordXYN_and_F000 (op : BitVec 4) (x y : Reg) (n : BitVec 4) : wordXYN op x y n &&& 0xF000#16 = op ++ 0#12 :=
  wordA_and_F000 op (fieldOfReg x ++ (fieldOfReg y ++ n))

theorem wordXNN_and_F0FF (op : BitVec 4) (x : Reg) (nn : Byte) :
    wordXNN op x nn &&& 0xF0FF#16 = op ++ (0#4 ++ nn) := by
  rw [wordXNN, show 0xF0FF#16 = (0xF#4 ++ (0#4 ++ 0xFF#8) : BitVec 16) from by decide, BitVec.and_append,
    BitVec.and_append, field_and_F, BitVec.and_zero, show 0xFF#8 = BitVec.allOnes 8 from by decide, BitVec.and_allOnes]

theorem wordXYN_and_F00F (op : BitVec 4) (x y : Reg) (n : BitVec 4) :
    wordXYN op x y n &&& 0xF00F#16 = op ++ (0#4 ++ (0#4 ++ n)) := by
  rw [wordXYN, show 0xF00F#16 = (0xF#4 ++ (0#4 ++ (0#4 ++ 0xF#4)) : BitVec 16) from by decide, BitVec.and_append,
    BitVec.and_append, BitVec.and_append, field_and_F, field_and_F, BitVec.and_zero, BitVec.and_zero]

theorem sys (nnn : Addr12) : Statement (.sys nnn) := (wordA_and_F000 0x0#4 nnn).trans rfl
theorem cls : Statement .cls := rfl
theorem ret : Statement .ret := rfl
theorem jp (nnn : Addr12) : Statement (.jp nnn) := (wordA_and_F000 0x1#4 nnn).trans rfl
theorem call (nnn : Addr12) : Statement (.call nnn) := (wordA_and_F000 0x2#4 nnn).trans rfl
theorem seByte (x : Reg) (nn : Byte) : Statement (.seByte x nn) := (wordXNN_and_F000 0x3#4 x nn).trans rfl
theorem sneByte (x : Reg) (nn : Byte) : Statement (.sneByte x nn) := (wordXNN_and_F000 0x4#4 x nn).trans rfl
theorem seReg (x y : Reg) : Statement (.seReg x y) := (wordXYN_and_F00F 0x5#4 x y 0x0#4).trans rfl
theorem ldByte (x : Reg) (nn : Byte) : Statement (.ldByte x nn) := (wordXNN_and_F000 0x6#4 x nn).trans rfl
theorem addByte (x : Reg) (nn : Byte) : Statement (.addByte x nn) := (wordXNN_and_F000 0x7#4 x nn).trans rfl
theorem ldReg (x y : Reg) : Statement (.ldReg x y) := (wordXYN_and_F00F 0x8#4 x y 0x0#4).trans rfl
theorem or (x y : Reg) : Statement (.or x y) := (wordXYN_and_F00F 0x8#4 x y 0x1#4).trans rfl
theorem and (x y : Reg) : Statement (.and x y) := (wordXYN_and_F00F 0x8#4 x y 0x2#4).trans rfl
theorem xor (x y : Reg) : Statement (.xor x y) := (wordXYN_and_F00F 0x8#4 x y 0x3#4).trans rfl
theorem addReg (x y : Reg) : Statement (.addReg x y) := (wordXYN_and_F00F 0x8#4 x y 0x4#4).trans rfl
theorem sub (x y : Reg) : Statement (.sub x y) := (wordXYN_and_F00F 0x8#4 x y 0x5#4).trans rfl
theorem shr (x y : Reg) : Statement (.shr x y) := (wordXYN_and_F00F 0x8#4 x y 0x6#4).trans rfl
theorem subn (x y : Reg) : Statement (.subn x y) := (wordXYN_and_F00F 0x8#4 x y 0x7#4).trans rfl
theorem shl (x y : Reg) : Statement (.shl x y) := (wordXYN_and_F00F 0x8#4 x y 0xE#4).trans rfl
theorem sneReg (x y : Reg) : Statement (.sneReg x y) := (wordXYN_and_F00F 0x9#4 x y 0x0#4).trans rfl
theorem ldI (nnn : Addr12) : Statement (.ldI nnn) := (wordA_and_F000 0xA#4 nnn).trans rfl
theorem jpV0 (nnn : Addr12) : Statement (.jpV0 nnn) := (wordA_and_F000 0xB#4 nnn).trans rfl
theorem rnd (x : Reg) (nn : Byte) : Statement (.rnd x nn) := (wordXNN_and_F000 0xC#4 x nn).trans rfl
theorem drw (x y : Reg) (n : BitVec 4) : Statement (.drw x y n) := (wordXYN_and_F000 0xD#4 x y n).trans rfl
theorem skp (x : Reg) : Statement (.skp x) := (wordXNN_and_F0FF 0xE#4 x 0x9E#8).trans rfl
theorem sknp (x : Reg) : Statement (.sknp x) := (wordXNN_and_F0FF 0xE#4 x 0xA1#8).trans rfl
theorem ldVxDt (x : Reg) : Statement (.ldVxDt x) := (wordXNN_and_F0FF 0xF#4 x 0x07#8).trans rfl
theorem ldVxK (x : Reg) : Statement (.ldVxK x) := (wordXNN_and_F0FF 0xF#4 x 0x0A#8).trans rfl
theorem ldDtVx (x : Reg) : Statement (.ldDtVx x) := (wordXNN_and_F0FF 0xF#4 x 0x15#8).trans rfl
theorem ldStVx (x : Reg) : Statement (.ldStVx x) := (wordXNN_and_F0FF 0xF#4 x 0x18#8).trans rfl
theorem addIVx (x : Reg) : Statement (.addIVx x) := (wordXNN_and_F0FF 0xF#4 x 0x1E#8).trans rfl
theorem ldFVx (x : Reg) : Statement (.ldFVx x) := (wordXNN_and_F0FF 0xF#4 x 0x29#8).trans rfl
theorem ldBVx (x : Reg) : Statement (.ldBVx x) := (wordXNN_and_F0FF 0xF#4 x 0x33#8).trans rfl
theorem store (x : Reg) : Statement (.store x) := (wordXNN_and_F0FF 0xF#4 x 0x55#8).trans rfl
theorem load (x : Reg) : Statement (.load x) := (wordXNN_and_F0FF 0xF#4 x 0x65#8).trans rfl

end Sys2Proof.Laws.EncodingRow
end

