-- ==== Sys2Proof/Laws/State.lean ====
section
/-! SUPPORT. One lemma for each field and each of the updates the meanings are built of (`advance`, `setV`, `poke`,
`raise`), and what the smaller updates over them leave alone, so that no proof unfolds a record update. -/

namespace Sys2Proof.Machine

/-! ## advance -/

@[simp] theorem State.advance_mem (s : State) : s.advance.mem = s.mem := rfl
@[simp] theorem State.advance_v (s : State) : s.advance.v = s.v := rfl
@[simp] theorem State.advance_i (s : State) : s.advance.i = s.i := rfl
@[simp] theorem State.advance_pc (s : State) : s.advance.pc = s.pc + 2 := rfl
@[simp] theorem State.advance_stack (s : State) : s.advance.stack = s.stack := rfl
@[simp] theorem State.advance_sp (s : State) : s.advance.sp = s.sp := rfl
@[simp] theorem State.advance_dt (s : State) : s.advance.dt = s.dt := rfl
@[simp] theorem State.advance_st (s : State) : s.advance.st = s.st := rfl
@[simp] theorem State.advance_fb (s : State) : s.advance.fb = s.fb := rfl
@[simp] theorem State.advance_key (s : State) : s.advance.key = s.key := rfl
@[simp] theorem State.advance_runState (s : State) : s.advance.runState = s.runState := rfl
@[simp] theorem State.advance_await (s : State) : s.advance.await = s.await := rfl
@[simp] theorem State.advance_lastError (s : State) : s.advance.lastError = s.lastError := rfl
@[simp] theorem State.advance_programId (s : State) : s.advance.programId = s.programId := rfl
@[simp] theorem State.advance_config (s : State) : s.advance.config = s.config := rfl
@[simp] theorem State.advance_pending (s : State) : s.advance.pending = s.pending := rfl
@[simp] theorem State.advance_recurring (s : State) : s.advance.recurring = s.recurring := rfl
@[simp] theorem State.advance_arrivals (s : State) : s.advance.arrivals = s.arrivals := rfl
@[simp] theorem State.advance_randFeed (s : State) : s.advance.randFeed = s.randFeed := rfl
@[simp] theorem State.advance_draws (s : State) : s.advance.draws = s.draws := rfl

/-! ## setV -/

@[simp] theorem State.setV_mem (s : State) (x : Reg) (b : Byte) : (s.setV x b).mem = s.mem := rfl
@[simp] theorem State.setV_v (s : State) (x : Reg) (b : Byte) : (s.setV x b).v = s.v.set x.val b x.isLt := rfl
@[simp] theorem State.setV_i (s : State) (x : Reg) (b : Byte) : (s.setV x b).i = s.i := rfl
@[simp] theorem State.setV_pc (s : State) (x : Reg) (b : Byte) : (s.setV x b).pc = s.pc := rfl
@[simp] theorem State.setV_stack (s : State) (x : Reg) (b : Byte) : (s.setV x b).stack = s.stack := rfl
@[simp] theorem State.setV_sp (s : State) (x : Reg) (b : Byte) : (s.setV x b).sp = s.sp := rfl
@[simp] theorem State.setV_dt (s : State) (x : Reg) (b : Byte) : (s.setV x b).dt = s.dt := rfl
@[simp] theorem State.setV_st (s : State) (x : Reg) (b : Byte) : (s.setV x b).st = s.st := rfl
@[simp] theorem State.setV_fb (s : State) (x : Reg) (b : Byte) : (s.setV x b).fb = s.fb := rfl
@[simp] theorem State.setV_key (s : State) (x : Reg) (b : Byte) : (s.setV x b).key = s.key := rfl
@[simp] theorem State.setV_runState (s : State) (x : Reg) (b : Byte) : (s.setV x b).runState = s.runState := rfl
@[simp] theorem State.setV_await (s : State) (x : Reg) (b : Byte) : (s.setV x b).await = s.await := rfl
@[simp] theorem State.setV_lastError (s : State) (x : Reg) (b : Byte) : (s.setV x b).lastError = s.lastError := rfl
@[simp] theorem State.setV_programId (s : State) (x : Reg) (b : Byte) : (s.setV x b).programId = s.programId := rfl
@[simp] theorem State.setV_config (s : State) (x : Reg) (b : Byte) : (s.setV x b).config = s.config := rfl
@[simp] theorem State.setV_pending (s : State) (x : Reg) (b : Byte) : (s.setV x b).pending = s.pending := rfl
@[simp] theorem State.setV_recurring (s : State) (x : Reg) (b : Byte) : (s.setV x b).recurring = s.recurring := rfl
@[simp] theorem State.setV_arrivals (s : State) (x : Reg) (b : Byte) : (s.setV x b).arrivals = s.arrivals := rfl
@[simp] theorem State.setV_randFeed (s : State) (x : Reg) (b : Byte) : (s.setV x b).randFeed = s.randFeed := rfl
@[simp] theorem State.setV_draws (s : State) (x : Reg) (b : Byte) : (s.setV x b).draws = s.draws := rfl

/-! ## poke -/

@[simp] theorem State.poke_mem (s : State) (ea : Nat) (b : Byte) : (s.poke ea b).mem = Memory.write s.config.font s.mem (ea % 0x1000) b := rfl
@[simp] theorem State.poke_v (s : State) (ea : Nat) (b : Byte) : (s.poke ea b).v = s.v := rfl
@[simp] theorem State.poke_i (s : State) (ea : Nat) (b : Byte) : (s.poke ea b).i = s.i := rfl
@[simp] theorem State.poke_pc (s : State) (ea : Nat) (b : Byte) : (s.poke ea b).pc = s.pc := rfl
@[simp] theorem State.poke_stack (s : State) (ea : Nat) (b : Byte) : (s.poke ea b).stack = s.stack := rfl
@[simp] theorem State.poke_sp (s : State) (ea : Nat) (b : Byte) : (s.poke ea b).sp = s.sp := rfl
@[simp] theorem State.poke_dt (s : State) (ea : Nat) (b : Byte) : (s.poke ea b).dt = s.dt := rfl
@[simp] theorem State.poke_st (s : State) (ea : Nat) (b : Byte) : (s.poke ea b).st = s.st := rfl
@[simp] theorem State.poke_fb (s : State) (ea : Nat) (b : Byte) : (s.poke ea b).fb = s.fb := rfl
@[simp] theorem State.poke_key (s : State) (ea : Nat) (b : Byte) : (s.poke ea b).key = s.key := rfl
@[simp] theorem State.poke_runState (s : State) (ea : Nat) (b : Byte) : (s.poke ea b).runState = s.runState := rfl
@[simp] theorem State.poke_await (s : State) (ea : Nat) (b : Byte) : (s.poke ea b).await = s.await := rfl
@[simp] theorem State.poke_lastError (s : State) (ea : Nat) (b : Byte) : (s.poke ea b).lastError = s.lastError := rfl
@[simp] theorem State.poke_programId (s : State) (ea : Nat) (b : Byte) : (s.poke ea b).programId = s.programId := rfl
@[simp] theorem State.poke_config (s : State) (ea : Nat) (b : Byte) : (s.poke ea b).config = s.config := rfl
@[simp] theorem State.poke_pending (s : State) (ea : Nat) (b : Byte) : (s.poke ea b).pending = s.pending := rfl
@[simp] theorem State.poke_recurring (s : State) (ea : Nat) (b : Byte) : (s.poke ea b).recurring = s.recurring := rfl
@[simp] theorem State.poke_arrivals (s : State) (ea : Nat) (b : Byte) : (s.poke ea b).arrivals = s.arrivals := rfl
@[simp] theorem State.poke_randFeed (s : State) (ea : Nat) (b : Byte) : (s.poke ea b).randFeed = s.randFeed := rfl
@[simp] theorem State.poke_draws (s : State) (ea : Nat) (b : Byte) : (s.poke ea b).draws = s.draws := rfl

/-! ## raise -/

@[simp] theorem State.raise_mem (s : State) (e : CoreError) : (s.raise e).mem = s.mem := rfl
@[simp] theorem State.raise_v (s : State) (e : CoreError) : (s.raise e).v = s.v := rfl
@[simp] theorem State.raise_i (s : State) (e : CoreError) : (s.raise e).i = s.i := rfl
@[simp] theorem State.raise_pc (s : State) (e : CoreError) : (s.raise e).pc = s.pc := rfl
@[simp] theorem State.raise_stack (s : State) (e : CoreError) : (s.raise e).stack = s.stack := rfl
@[simp] theorem State.raise_sp (s : State) (e : CoreError) : (s.raise e).sp = s.sp := rfl
@[simp] theorem State.raise_dt (s : State) (e : CoreError) : (s.raise e).dt = s.dt := rfl
@[simp] theorem State.raise_st (s : State) (e : CoreError) : (s.raise e).st = s.st := rfl
@[simp] theorem State.raise_fb (s : State) (e : CoreError) : (s.raise e).fb = s.fb := rfl
@[simp] theorem State.raise_key (s : State) (e : CoreError) : (s.raise e).key = s.key := rfl
@[simp] theorem State.raise_runState (s : State) (e : CoreError) : (s.raise e).runState = .halted := rfl
@[simp] theorem State.raise_await (s : State) (e : CoreError) : (s.raise e).await = s.await := rfl
@[simp] theorem State.raise_lastError (s : State) (e : CoreError) : (s.raise e).lastError = some e := rfl
@[simp] theorem State.raise_programId (s : State) (e : CoreError) : (s.raise e).programId = s.programId := rfl
@[simp] theorem State.raise_config (s : State) (e : CoreError) : (s.raise e).config = s.config := rfl
@[simp] theorem State.raise_pending (s : State) (e : CoreError) : (s.raise e).pending = s.pending := rfl
@[simp] theorem State.raise_recurring (s : State) (e : CoreError) : (s.raise e).recurring = s.recurring := rfl
@[simp] theorem State.raise_arrivals (s : State) (e : CoreError) : (s.raise e).arrivals = s.arrivals := rfl
@[simp] theorem State.raise_randFeed (s : State) (e : CoreError) : (s.raise e).randFeed = s.randFeed := rfl
@[simp] theorem State.raise_draws (s : State) (e : CoreError) : (s.raise e).draws = s.draws := rfl

/-! ## Registers -/

theorem State.setV_get (s : State) (x r : Reg) (b : Byte) : (s.setV x b).v[r] = if r = x then b else s.v[r] := by
  simp only [setV_v, Fin.getElem_fin, Vector.getElem_set]
  by_cases h : r = x
  · simp [h]
  · simp [h, Fin.val_inj, Ne.symm h]

/-- R23: the flag is written last, so it stands in VF even where VX is VF. -/
theorem State.setResultAndFlag_get (s : State) (x r : Reg) (b : Byte) (c : Bool) :
    (s.setResultAndFlag x b c).v[r] = if r = vf then flagByte c else if r = x then b else s.v[r] := by
  simp only [State.setResultAndFlag, State.setFlag, State.setV_get]

/-! ## What the smaller updates leave alone -/

theorem State.skipIf_pc (s : State) (c : Bool) : (s.skipIf c).pc = if c then s.pc + 2 else s.pc := by
  cases c <;> rfl

theorem State.skipIf_frame (s : State) (c : Bool) : s.skipIf c = { s with pc := (s.skipIf c).pc } := by
  cases c <;> rfl

theorem State.logicFlag_frame (s : State) : s.logicFlag = { s with v := s.logicFlag.v } := by
  unfold State.logicFlag
  split <;> rfl

theorem State.addImmediateFlag_frame (s : State) (c : Bool) :
    s.addImmediateFlag c = { s with v := (s.addImmediateFlag c).v } := by
  unfold State.addImmediateFlag
  split <;> rfl

theorem State.indexAfterBlock_frame (s : State) (x : Reg) :
    s.indexAfterBlock x = { s with i := (s.indexAfterBlock x).i } := by
  unfold State.indexAfterBlock
  split <;> rfl

theorem State.indexAfterBlock_i (s : State) (x : Reg) :
    (s.indexAfterBlock x).i = if s.config.quirkMemIncI then s.i + BitVec.ofNat 16 (x.val + 1) else s.i := by
  unfold State.indexAfterBlock
  split <;> rfl

theorem State.afterDraw_frame (s : State) :
    s.afterDraw = { s with randFeed := s.afterDraw.randFeed, draws := s.afterDraw.draws } := by
  unfold State.afterDraw
  split <;> rfl

/-- Taking an event changes the model's own three fields only. -/
theorem State.takeEvent_frame (s : State) :
    s.takeEvent = { s with
      pending := s.takeEvent.pending, recurring := s.takeEvent.recurring, arrivals := s.takeEvent.arrivals } := by
  unfold State.takeEvent
  split <;> rfl

theorem State.setRegsFrom_frame (s : State) (k : Nat) (bs : List Byte) :
    s.setRegsFrom k bs = { s with v := (s.setRegsFrom k bs).v } := by
  induction bs generalizing s k with
  | nil => rfl
  | cons b bs ih => simpa only [State.setRegsFrom] using ih { s with v := s.v.setIfInBounds k b } (k + 1)

/-- A block load from register `k` on: register `r` gets byte `r - k` where there is one, and keeps its value where not. -/
theorem State.setRegsFrom_get (s : State) (k : Nat) (bs : List Byte) (r : Reg) :
    (s.setRegsFrom k bs).v[r] = if k ≤ r.val then (bs[r.val - k]?).getD s.v[r] else s.v[r] := by
  induction bs generalizing s k with
  | nil => simp [State.setRegsFrom]
  | cons b bs ih =>
    simp only [State.setRegsFrom, ih, Fin.getElem_fin, Vector.getElem_setIfInBounds]
    rcases Nat.lt_trichotomy k r.val with h | h | h
    · obtain ⟨d, hd⟩ : ∃ d, r.val - k = d + 1 := ⟨r.val - k - 1, by omega⟩
      have hd' : r.val - (k + 1) = d := by omega
      simp [Nat.succ_le_of_lt h, Nat.le_of_lt h, hd, hd', Nat.ne_of_lt h]
    · subst h
      simp
    · simp [Nat.not_le_of_lt h, Nat.not_le_of_lt (Nat.lt_succ_of_lt h), Nat.ne_of_gt h]

end Sys2Proof.Machine
end

