-- ==== Sys2Proof/Tests/Slice0.lean ====
section
/-! SUPPORT. Tests of the model. Words are written out from the patterns of spec/30_encoding.md R84; expected results are
those of spec/95_test_vectors.md, by the section or vector each comment names. The second half gives, for each statement
with hypotheses, states and operands that meet them. -/

namespace Sys2Proof.Tests

open Sys2Proof.Machine

/-! ## Well-formedness: one term for each check, which the check refuses, and its neighbours, which it accepts. -/

theorem test_wf_sys_is_not_cls : (Instr.sys 0x0E0).wf = false := by decide
theorem test_wf_sys_is_not_ret : (Instr.sys 0x0EE).wf = false := by decide
theorem test_wf_sys_neighbours : (Instr.sys 0x0E1).wf = true ∧ (Instr.sys 0x000).wf = true := by decide
theorem test_wf_drw_draws_a_row : (Instr.drw 1 2 0).wf = false ∧ (Instr.drw 1 2 1).wf = true := by decide

/-! ## Decoding: each constructor from a word written out from its pattern in R84. -/

theorem test_decode_A_layout :
    decodeTableWord 16 0b0000000100100011 = some (.sys 0x123) ∧
    decodeTableWord 16 0b0001001000110100 = some (.jp 0x234) ∧
    decodeTableWord 16 0b0010101010111100 = some (.call 0xABC) ∧
    decodeTableWord 16 0b1010000100100011 = some (.ldI 0x123) ∧
    decodeTableWord 16 0b1011111100000001 = some (.jpV0 0xF01) := by decide

theorem test_decode_fixed_words :
    decodeTableWord 16 0b0000000011100000 = some .cls ∧ decodeTableWord 16 0b0000000011101110 = some .ret := by decide

theorem test_decode_XNN_layout :
    decodeTableWord 16 0b0011001101000010 = some (.seByte 3 0x42) ∧
    decodeTableWord 16 0b0100001101000010 = some (.sneByte 3 0x42) ∧
    decodeTableWord 16 0b0110101001000010 = some (.ldByte 0xA 0x42) ∧
    decodeTableWord 16 0b0111001000100000 = some (.addByte 2 0x20) ∧
    decodeTableWord 16 0b1100000100001111 = some (.rnd 1 0x0F) := by decide

theorem test_decode_XY_layout :
    decodeTableWord 16 0b0101000100100000 = some (.seReg 1 2) ∧
    decodeTableWord 16 0b1001000100100000 = some (.sneReg 1 2) ∧
    decodeTableWord 16 0b1000000100100000 = some (.ldReg 1 2) ∧
    decodeTableWord 16 0b1000000100100001 = some (.or 1 2) ∧
    decodeTableWord 16 0b1000000100100010 = some (.and 1 2) ∧
    decodeTableWord 16 0b1000000100100011 = some (.xor 1 2) ∧
    decodeTableWord 16 0b1000000100100100 = some (.addReg 1 2) := by decide

theorem test_decode_XY_layout_rest :
    decodeTableWord 16 0b1000000100100101 = some (.sub 1 2) ∧
    decodeTableWord 16 0b1000000100100110 = some (.shr 1 2) ∧
    decodeTableWord 16 0b1000000100100111 = some (.subn 1 2) ∧
    decodeTableWord 16 0b1000000100101110 = some (.shl 1 2) ∧
    decodeTableWord 16 0b1101000100101111 = some (.drw 1 2 0xF) := by decide

theorem test_decode_X_layout :
    decodeTableWord 16 0b1110001110011110 = some (.skp 3) ∧
    decodeTableWord 16 0b1110001110100001 = some (.sknp 3) ∧
    decodeTableWord 16 0b1111001100000111 = some (.ldVxDt 3) ∧
    decodeTableWord 16 0b1111001100001010 = some (.ldVxK 3) ∧
    decodeTableWord 16 0b1111001100010101 = some (.ldDtVx 3) ∧
    decodeTableWord 16 0b1111001100011000 = some (.ldStVx 3) := by decide

theorem test_decode_X_layout_rest :
    decodeTableWord 16 0b1111001100011110 = some (.addIVx 3) ∧
    decodeTableWord 16 0b1111001100101001 = some (.ldFVx 3) ∧
    decodeTableWord 16 0b1111001100110011 = some (.ldBVx 3) ∧
    decodeTableWord 16 0b1111001101010101 = some (.store 3) ∧
    decodeTableWord 16 0b1111001101100101 = some (.load 3) := by decide

/-- One word of each reserved class of R86 (vectors L1-7 and section 2.1). -/
theorem test_decode_rejects_reserved_words :
    decodeTableWord 16 0x5121 = none ∧ decodeTableWord 16 0x8ABC = none ∧ decodeTableWord 16 0x9121 = none ∧
    decodeTableWord 16 0xD120 = none ∧ decodeTableWord 16 0xE0FF = none ∧ decodeTableWord 16 0xF0FF = none := by decide

/-! ## One cycle -/

/-- Whether a step answers a next state of which `p` holds. -/
def isNext (o : StepOutcome) (p : State → Bool) : Bool :=
  match o with
  | .next t => p t
  | .fault _ => false
  | .refused _ => false

/-- One cycle on a word placed at PC, from the state after reset changed by `f`; `p` holds of the result. -/
def cycleOn (w : Nat) (f : State → State) (p : State → Bool) : Bool :=
  isNext (step ((f State.reset).withFetchWord 16 w)) p

/-- Halted with the error `e` and PC at `pc`. -/
def haltedAt (pc : Word) (e : CoreError) (t : State) : Bool :=
  decide (t.runState = .halted) && decide (t.lastError = some e) && decide (t.pc = pc)

/-- The configuration changed by `f`. -/
def withConfig (f : Config → Config) (s : State) : State := { s with config := f s.config }

/-- V0 and V1. -/
def v01 (a b : Byte) (s : State) : State := (s.setV 0 a).setV 1 b

/-- V0 and VF. -/
def v0F (t : State) : Byte × Byte := (t.v[(0 : Reg)], t.v[vf])

/-- Strict mode with I set. -/
def strictI (i : Word) (s : State) : State := withConfig (fun c => { c with strictMode := true }) { s with i := i }

/-! ### Cycle and fetch (section 2.1) -/

theorem test_fetch_is_big_endian : cycleOn 0x1234 id (fun t => decide (t.pc = 0x234)) = true := by decide

theorem test_fetch_wraps_at_the_top :
    isNext (step ((({ State.reset with pc := 0xFFF } : State).poke 0xFFF 0x12).withEvent .cycle)) (fun t => decide (t.pc = 0x2F0)) = true := by
  decide

theorem test_fetch_out_of_bounds :
    isNext (step (State.withEvent { State.reset with pc := 0x1000 } .cycle)) (haltedAt 0x1000 (.fetchOutOfBounds 0x1000)) = true := by decide

theorem test_reset_runs_the_empty_rom :
    isNext (step (State.reset.withEvent .cycle)) (haltedAt 0x200 (.unknownOpcode 0x0000)) = true := by decide

theorem test_reserved_word_halts : cycleOn 0xD120 id (haltedAt 0x200 (.unknownOpcode 0xD120)) = true := by decide

/-! ### Control flow (section 2.2) -/

theorem test_sys : cycleOn 0x0FFF id (haltedAt 0x200 (.unknownOpcode 0x0FFF)) = true := by decide

theorem test_jp_odd_target : cycleOn 0x1203 id (fun t => decide (t.pc = 0x203)) = true := by decide

theorem test_call_pushes_at_the_top :
    cycleOn 0x2300 (fun s => { s with pc := 0xFFE })
      (fun t => decide (t.stack[0] = 0x1000) && decide (t.sp = 1) && decide (t.pc = 0x300)) = true := by decide

theorem test_call_overflows_at_depth_12 :
    cycleOn 0x2300 (fun s => withConfig (fun c => { c with stackDepth := 12 }) { s with sp := 12 })
      (haltedAt 0x200 (.stackOverflow 0x200)) = true := by decide

theorem test_ret :
    cycleOn 0x00EE (fun s => { s with pc := 0x300, sp := 1, stack := s.stack.set 0 0x202 })
      (fun t => decide (t.pc = 0x202) && decide (t.sp = 0)) = true := by decide

theorem test_ret_underflows :
    cycleOn 0x00EE (fun s => { s with pc := 0x300 }) (haltedAt 0x300 (.stackUnderflow 0x300)) = true := by decide

theorem test_jp_v0_is_not_masked :
    cycleOn 0xBF01 (fun s => s.setV 0 0xFF) (fun t => decide (t.pc = 0x1000)) = true := by decide

theorem test_jp_vx_under_its_quirk :
    cycleOn 0xB320 (fun s => withConfig (fun c => { c with quirkJumpVx := true }) ((s.setV 0 0x10).setV 3 0x05))
      (fun t => decide (t.pc = 0x325)) = true := by decide

theorem test_se_byte :
    cycleOn 0x3342 (fun s => s.setV 3 0x42) (fun t => decide (t.pc = 0x204)) = true ∧
    cycleOn 0x3300 (fun s => s.setV 3 0x42) (fun t => decide (t.pc = 0x202)) = true := by decide

theorem test_sne_byte :
    cycleOn 0x4342 (fun s => s.setV 3 0x42) (fun t => decide (t.pc = 0x202)) = true ∧
    cycleOn 0x4300 (fun s => s.setV 3 0x42) (fun t => decide (t.pc = 0x204)) = true := by decide

theorem test_se_reg :
    cycleOn 0x5120 (fun s => (s.setV 1 7).setV 2 7) (fun t => decide (t.pc = 0x204)) = true ∧
    cycleOn 0x5120 (fun s => (s.setV 1 7).setV 2 8) (fun t => decide (t.pc = 0x202)) = true := by decide

theorem test_sne_reg :
    cycleOn 0x9120 (fun s => (s.setV 1 7).setV 2 8) (fun t => decide (t.pc = 0x204)) = true ∧
    cycleOn 0x9110 (fun s => s.setV 1 7) (fun t => decide (t.pc = 0x202)) = true := by decide

/-! ### Arithmetic and logic (sections 1 and 2.3) -/

theorem test_ld_byte : cycleOn 0x6A42 id (fun t => decide (t.v[(0xA : Reg)] = 0x42)) = true := by decide

theorem test_add_byte_leaves_vf :
    cycleOn 0x7001 (fun s => (s.setV 0 0xFF).setV vf 0x55) (fun t => decide (v0F t = (0x00, 0x55))) = true := by decide

theorem test_add_byte_carry_overwrites_vf :
    cycleOn 0x7FF0 (fun s => withConfig (fun c => { c with addiSetsCarry := true }) (s.setV vf 0x10))
      (fun t => decide (t.v[vf] = 1)) = true := by decide

theorem test_ld_reg : cycleOn 0x8010 (v01 0 0x33) (fun t => decide (t.v[(0 : Reg)] = 0x33)) = true := by decide

theorem test_or :
    cycleOn 0x8011 (fun s => (v01 0xF0 0x0F s).setV vf 0x77) (fun t => decide (v0F t = (0xFF, 0x77))) = true ∧
    cycleOn 0x8011 (fun s => withConfig (fun c => { c with quirkLogicVfReset := true }) ((v01 0xF0 0x0F s).setV vf 0x77))
      (fun t => decide (v0F t = (0xFF, 0))) = true := by decide

theorem test_and : cycleOn 0x8012 (v01 0xF0 0x3C) (fun t => decide (t.v[(0 : Reg)] = 0x30)) = true := by decide

theorem test_xor : cycleOn 0x8013 (v01 0xF0 0x3C) (fun t => decide (t.v[(0 : Reg)] = 0xCC)) = true := by decide

theorem test_add_carries : cycleOn 0x8014 (v01 0xFF 0xFF) (fun t => decide (v0F t = (0xFE, 1))) = true := by decide

theorem test_add_flag_is_last :
    cycleOn 0x8F14 (fun s => (s.setV vf 0xFF).setV 1 0x01) (fun t => decide (t.v[vf] = 1)) = true := by decide

theorem test_sub_borrows : cycleOn 0x8015 (v01 0x00 0x01) (fun t => decide (v0F t = (0xFF, 0))) = true := by decide

theorem test_sub_equal_operands : cycleOn 0x8015 (v01 0x42 0x42) (fun t => decide (v0F t = (0x00, 1))) = true := by decide

theorem test_shr : cycleOn 0x8006 (v01 0x05 0) (fun t => decide (v0F t = (0x02, 1))) = true := by decide

theorem test_shr_from_vy :
    cycleOn 0x8016 (fun s => withConfig (fun c => { c with quirkShiftSrc := .vy }) (v01 0x00 0x03 s))
      (fun t => decide (v0F t = (0x01, 1)) && decide (t.v[(1 : Reg)] = 0x03)) = true := by decide

theorem test_subn : cycleOn 0x8017 (v01 0x03 0x05) (fun t => decide (v0F t = (0x02, 1))) = true := by decide

theorem test_subn_borrows : cycleOn 0x8017 (v01 0x05 0x03) (fun t => decide (v0F t = (0xFE, 0))) = true := by decide

theorem test_shl : cycleOn 0x800E (v01 0x81 0) (fun t => decide (v0F t = (0x02, 1))) = true := by decide

theorem test_shl_flag_is_last : cycleOn 0x8F0E (fun s => s.setV vf 0x80) (fun t => decide (t.v[vf] = 1)) = true := by decide

theorem test_rnd_masks_the_draw :
    cycleOn 0xC10F (fun s => { s with randFeed := [0xAB, 0xCD] })
      (fun t => decide (t.v[(1 : Reg)] = 0x0B) && decide (t.randFeed = [0xCD])) = true := by decide

/-! ### Display (section 2.4) -/

theorem test_cls_leaves_vf :
    cycleOn 0x00E0 (fun s => { s.setV vf 0x33 with fb := s.fb.flip 3 4 })
      (fun t => !t.fb.pixel 3 4 && decide (t.v[vf] = 0x33)) = true := by decide

theorem test_drw_wraps_horizontally :
    cycleOn 0xD011 (fun s => v01 0x3C 0x00 (({ s with i := 0x300 } : State).poke 0x300 0xFF))
      (fun t => t.fb.pixel 60 0 && t.fb.pixel 63 0 && t.fb.pixel 0 0 && t.fb.pixel 3 0 && !t.fb.pixel 4 0 &&
        !t.fb.pixel 59 0 && decide (t.v[vf] = 0)) = true := by decide

theorem test_drw_coordinates_are_read_first_and_reduced :
    cycleOn 0xDF15 (fun s => s.setV vf 0x05)
      (fun t => t.fb.pixel 5 0 && t.fb.pixel 8 4 && !t.fb.pixel 6 1 && decide (t.v[vf] = 0)) = true := by decide

theorem test_drw_collides :
    cycleOn 0xD011 (fun s => ({ s with i := 0x300, fb := s.fb.flip 0 0 } : State).poke 0x300 0x80)
      (fun t => !t.fb.pixel 0 0 && decide (t.v[vf] = 1)) = true := by decide

/-! ### Index register and memory (section 2.5) -/

theorem test_ld_i : cycleOn 0xA123 id (fun t => decide (t.i = 0x123)) = true := by decide

theorem test_add_i_wraps :
    cycleOn 0xF01E (fun s => { s.setV 0 0x01 with i := 0xFFFF }) (fun t => decide (t.i = 0)) = true := by decide

theorem test_ld_f_uses_the_low_nibble :
    cycleOn 0xF029 (fun s => s.setV 0 0x1A) (fun t => decide (t.i = 0x032)) = true := by decide

theorem test_ld_b_wraps :
    cycleOn 0xF033 (fun s => { s.setV 0 0xFF with i := 0xFFF })
      (fun t => decide (t.memRead 0xFFF = 2) && decide (t.memRead 0 = 5) && decide (t.memRead 1 = 5)) = true := by decide

theorem test_ld_b_strict_violation :
    cycleOn 0xF033 (fun s => strictI 0xFFF (s.setV 0 0xFF))
      (fun t => haltedAt 0x200 (.strictWriteViolation 0x1000) t && decide (t.memRead 0xFFF = 0)) = true := by decide

theorem test_store :
    cycleOn 0xF155 (fun s => withConfig (fun c => { c with quirkMemIncI := true }) { v01 0x11 0x22 s with i := 0x300 })
      (fun t => decide (t.memRead 0x300 = 0x11) && decide (t.memRead 0x301 = 0x22) && decide (t.i = 0x302)) = true := by
  decide

theorem test_store_strict_violation :
    cycleOn 0xFF55 (strictI 0xFF8) (haltedAt 0x200 (.strictWriteViolation 0x1000)) = true := by decide

theorem test_load :
    cycleOn 0xF265 (fun s => (((({ s with i := 0x300 } : State).poke 0x300 1).poke 0x301 2).poke 0x302 3))
      (fun t => decide (t.v[(0 : Reg)] = 1) && decide (t.v[(2 : Reg)] = 3) && decide (t.v[(3 : Reg)] = 0) &&
        decide (t.i = 0x300)) = true := by decide

theorem test_load_masks_the_address :
    cycleOn 0xF065 (fun s => { s with i := 0x1000 }) (fun t => decide (t.v[(0 : Reg)] = 0xF0)) = true := by decide

/-! ### Timers and keypad (section 2.6) -/

/-- A state with one key pressed. -/
def holding (k : Key) (s : State) : State := { s with key := s.key.set k.val true k.isLt }

theorem test_ld_vx_dt :
    cycleOn 0xF307 (fun s => { s with dt := 0x3C }) (fun t => decide (t.v[(3 : Reg)] = 0x3C)) = true := by decide

theorem test_ld_dt_vx : cycleOn 0xF015 (fun s => s.setV 0 0x0A) (fun t => decide (t.dt = 0x0A)) = true := by decide

theorem test_ld_st_vx :
    cycleOn 0xF118 (fun s => s.setV 1 0x02) (fun t => decide (t.st = 2) && t.soundOn) = true := by decide

theorem test_skp_uses_the_low_nibble :
    cycleOn 0xE29E (fun s => holding 7 (s.setV 2 0x17)) (fun t => decide (t.pc = 0x204)) = true ∧
    cycleOn 0xE29E (fun s => s.setV 2 0x07) (fun t => decide (t.pc = 0x202)) = true := by decide

theorem test_sknp :
    cycleOn 0xE2A1 (fun s => s.setV 2 0x07) (fun t => decide (t.pc = 0x204)) = true ∧
    cycleOn 0xE2A1 (fun s => holding 7 (s.setV 2 0x07)) (fun t => decide (t.pc = 0x202)) = true := by decide

theorem test_ld_vx_k_waits :
    cycleOn 0xF30A id (fun t => decide (t.await = some 3) && decide (t.pc = 0x200)) = true := by decide

/-! ### Events (sections 2.6 and 2.7) -/

/-- In an FX0A wait for V3, at 0x200. -/
def waiting : State := { State.reset with await := some 3 }

/-- One event on a state; `p` holds of the result. -/
def eventOn (e : Event) (s : State) (p : State → Bool) : Bool := isNext (step (s.withEvent e)) p

theorem test_wait_takes_the_lowest_key :
    eventOn (.keys [(0x9, true), (0x4, true)]) waiting
      (fun t => decide (t.v[(3 : Reg)] = 4) && decide (t.pc = 0x202) && decide (t.await = none) &&
        t.key[(4 : Key)] && t.key[(9 : Key)]) = true := by decide

theorem test_wait_ends_on_a_press_released_in_the_batch :
    eventOn (.keys [(0x6, true), (0x6, false)]) waiting
      (fun t => decide (t.v[(3 : Reg)] = 6) && !t.key[(6 : Key)]) = true := by decide

theorem test_wait_ignores_a_held_key :
    eventOn (.keys [(0xB, true)]) (holding 0xB waiting) (fun t => decide (t.await = some 3) && decide (t.pc = 0x200)) = true := by
  decide

theorem test_tick_counts_in_a_wait :
    eventOn .tick { waiting with dt := 5 } (fun t => decide (t.dt = 4) && decide (t.st = 0)) = true := by decide

theorem test_load_resets_a_halted_machine :
    eventOn (.load [0xAB] 7) { State.reset with runState := .halted, lastError := some (.unknownOpcode 0), mem := [(0, 1)] }
      (fun t => decide (t.runState = .running) && decide (t.lastError = none) && decide (t.memRead 0 = 0xF0) &&
        decide (t.memRead 0x200 = 0xAB) && decide (t.programId = 7)) = true := by decide

/-! ## Witnesses: the hypotheses of each statement are met together, at boundary values of each clause. -/

theorem witness_DecodeOfEncodeIsTheInstruction :
    (Instr.sys 0x0DF).wf = true ∧ (Instr.drw 15 15 1).wf = true ∧ (Instr.cls).wf = true := by decide

theorem witness_EncodeOfDecodeIsTheWord : decode 0xFFFF = .error (.unknownOpcode 0xFFFF) ∧ decode 0xFF65 = .ok (.load 15) :=
  ⟨rfl, rfl⟩

theorem witness_DecoderFollowsTheOpcodeMap :
    decode 0x00E0 = .ok .cls ∧ ∀ r ∈ opcodeTable, r.matchesWord 0xD120 = false := ⟨rfl, by decide⟩

/-- A machine in the middle of vector P5, whose host delivers cycle after cycle: FX55 at 0x206 is about to overwrite the
word at 0x208. -/
def storing : State :=
  ({ (State.reset.setV 0 0x12).setV 1 0x08 with
      pc := 0x206, i := 0x208, sp := 1, stack := State.reset.stack.set 0 0x204, recurring := [.cycle] }
    : State).placeWord 0xF155

/-- A machine that a CALL on a full stack of depth 12 halted, at 0x200, with the sound on. -/
def overflowed : State :=
  { HaltedWith { State.reset with sp := 12, st := 1 } (.stackOverflow 0x200) with
    config := { Config.default with stackDepth := 12 } }

theorem witness_StepRunsTheDecodedInstruction :
    storing.runState = .running ∧ storing.await = none ∧ storing.pc.toNat < 0x1000 ∧ storing.dueEvent = .cycle ∧
    decodeBytes (storing.memRead storing.pc.toNat) (storing.memRead (storing.pc.toNat + 1)) = .ok (.store 1) :=
  ⟨rfl, rfl, by decide, rfl, rfl⟩

theorem witness_CycleEngine_no_change :
    (∃ s : State, s.runState ≠ .running ∧ s.await = none) ∧ (∃ s : State, s.runState = .running ∧ s.await ≠ none) :=
  ⟨⟨{ State.reset with runState := .stopped }, by decide⟩, ⟨waiting, by decide⟩⟩

theorem witness_CycleEngine_fetch :
    (∃ s : State, s.runState = .running ∧ s.await = none ∧ s.pc.toNat = 0x1000) ∧
    (∃ s : State, s.runState = .running ∧ s.await = none ∧ s.pc.toNat = 0xFFF ∧
      decode (wordOfBytes (s.memRead s.pc.toNat) (s.memRead (s.pc.toNat + 1))) = .ok (.sys 0x0F0)) ∧
    (∃ s : State, s.runState = .running ∧ s.await = none ∧ s.pc.toNat = 0 ∧
      decode (wordOfBytes (s.memRead s.pc.toNat) (s.memRead (s.pc.toNat + 1))) = .error (.unknownOpcode 0xF090)) :=
  ⟨⟨{ State.reset with pc := 0x1000 }, by decide⟩, ⟨{ State.reset with pc := 0xFFF }, rfl, rfl, by decide, rfl⟩,
    ⟨{ State.reset with pc := 0 }, rfl, rfl, by decide, rfl⟩⟩

theorem witness_ErrorsLeaveThePreCycleState :
    ∃ t, (State.reset.withEvent .cycle).runState ≠ .halted ∧ step (State.reset.withEvent .cycle) = .next t ∧
      t.runState = .halted :=
  ⟨_, by decide, rfl, rfl⟩

theorem storing_inv : storing.Inv where
  configValid := by decide
  memory := by decide
  stackBound := by decide
  errorIffHalted := by decide
  noWaitWhenHalted := by decide
  noLoadError := fun _ h => nomatch h

theorem overflowed_inv : overflowed.Inv where
  configValid := by decide
  memory := by decide
  stackBound := by decide
  errorIffHalted := by decide
  noWaitWhenHalted := by decide
  noLoadError := by rintro e ⟨⟩; rfl

theorem storing_pcBounded : storing.PcBounded := ⟨by decide, by decide, by decide⟩

theorem witness_StepKeepsTheInvariant : storing.Inv ∧ ∃ t, step storing = .next t ∧ t.runState = .running :=
  ⟨storing_inv, _, rfl, rfl⟩

theorem witness_StepKeepsPcBounded : storing.PcBounded ∧ ∃ t, step storing = .next t ∧ t.pc = 0x208 :=
  ⟨storing_pcBounded, _, rfl, by decide⟩

theorem witness_LoadedMachine :
    ({ Config.default with stackDepth := 12 } : Config).valid = true ∧
    ∃ m, load { Config.default with stackDepth := 12 } [0x12, 0x00] 3 = .ok m ∧ m.programId = 3 :=
  ⟨by decide, _, rfl, rfl⟩

theorem witness_ConfigurationNeverChanges : ∃ t, step (overflowed.withEvent (.load [] 0)) = .next t ∧ t.sp = 0 :=
  ⟨_, rfl, rfl⟩

/-- Each kind of change that InstructionWriteSets speaks of happens. -/
theorem witness_InstructionWriteSets :
    isNext (exec (.drw 0 0 1) State.reset) (fun t => decide (t.fb ≠ State.reset.fb)) = true ∧
    isNext (exec (.store 0) storing) (fun t => decide (t.memRead 0x208 ≠ storing.memRead 0x208)) = true ∧
    isNext (exec (.call 0) storing) (fun t => decide (t.stack ≠ storing.stack)) = true ∧
    isNext (exec .ret storing) (fun t => decide (t.sp ≠ storing.sp)) = true ∧
    isNext (exec (.ldDtVx 0) storing) (fun t => decide (t.dt ≠ storing.dt)) = true ∧
    isNext (exec (.ldStVx 0) storing) (fun t => decide (t.st ≠ storing.st)) = true ∧
    isNext (exec (.ldVxK 0) storing) (fun t => decide (t.await ≠ storing.await)) = true ∧
    isNext (exec (.load 0) storing) (fun t => decide (t.v ≠ storing.v)) = true ∧
    isNext (exec (.seByte 0 0x12) storing) (fun t => decide (t.pc ≠ storing.pc + 2)) = true ∧
    isNext (exec (.rnd 0 0) { storing with randFeed := [1] }) (fun t => decide (t.randFeed ≠ [1])) = true ∧
    isNext (exec (.rnd 0 0) storing) (fun t => decide (t.draws ≠ storing.draws)) = true ∧
    isNext (exec (.ldI 0) storing) (fun t => decide (t.i ≠ storing.i)) = true := by decide

theorem witness_FlagWriters :
    isNext (exec (.addReg 0 1) (v01 0xFF 1 State.reset)) (fun t => decide (t.v[vf] ≠ 0)) = true ∧
    isNext (exec (.ldByte vf 1) State.reset) (fun t => decide (t.v[vf] ≠ 0)) = true ∧
    isNext (exec (.load vf) State.reset) (fun t => decide (t.v[vf] ≠ 0)) = true := by decide

theorem witness_CallPushesOrOverflows :
    (overflowed.config.valid = true ∧ overflowed.sp = overflowed.config.stackDepth) ∧
    (∃ s : State, s.config.valid = true ∧ s.sp = 15 ∧ s.sp < s.config.stackDepth) ∧
    (storing.config.valid = true ∧ storing.sp < storing.config.stackDepth) :=
  ⟨by decide, ⟨{ State.reset with sp := 15 }, by decide⟩, by decide⟩

theorem witness_RetPopsOrUnderflows :
    (State.reset.config.valid = true ∧ State.reset.sp = 0 ∧ State.reset.sp ≤ State.reset.config.stackDepth) ∧
    (overflowed.config.valid = true ∧ overflowed.sp ≤ overflowed.config.stackDepth ∧ 0 < overflowed.sp) := by decide

theorem witness_CallThenRetReturns :
    storing.config.valid = true ∧ storing.sp < storing.config.stackDepth ∧ ∃ t, exec (.call 0x500) storing = .next t :=
  ⟨by decide, by decide, _, rfl⟩

theorem witness_IndexedJump :
    (∃ s : State, s.config.quirkJumpVx = false) ∧ (∃ s : State, s.config.quirkJumpVx = true) ∧
    (15 : Reg).val = (0xFFF : Addr12).toNat / 256 ∧ (0 : Reg).val = (0x0FF : Addr12).toNat / 256 :=
  ⟨⟨State.reset, rfl⟩, ⟨withConfig (fun c => { c with quirkJumpVx := true }) State.reset, rfl⟩, by decide, by decide⟩

/-- The operand is V0 in the first configuration and V1 in the second. -/
theorem witness_ShiftsByOne :
    (let s := v01 0x81 0x7E State.reset
     0x81 = if s.config.quirkShiftSrc = .vx then s.v[(0 : Reg)].toNat else s.v[(1 : Reg)].toNat) ∧
    (let s := withConfig (fun c => { c with quirkShiftSrc := .vy }) (v01 0x81 0x7E State.reset)
     0x7E = if s.config.quirkShiftSrc = .vx then s.v[(0 : Reg)].toNat else s.v[(1 : Reg)].toNat) := by decide

theorem witness_RandomByteIsMasked :
    State.reset.randFeed = [] ∧ ({ State.reset with randFeed := [0xAB] } : State).randFeed = 0xAB :: [] := by decide

/-- A clear screen has no pixel on, under the sprite or elsewhere; the other clause has the font's first row at (0, 0). -/
theorem witness_DrawFlipsUnderTheSprite :
    (Instr.drw 0 1 15).wf = true ∧
    (∀ px py, State.reset.SpriteOn 0 1 15 px py → State.reset.fb.pixel px py = false) ∧
    (∃ s : State, ∃ px py, s.SpriteOn 0 1 15 px py ∧ s.fb.pixel px py = true) := by
  refine ⟨by decide, fun px py _ => by simp [State.reset, Framebuffer.pixel], ?_⟩
  exact ⟨{ State.reset with fb := State.reset.fb.flip 0 0 }, 0, 0, ⟨0, 0, by decide⟩, by decide⟩

/-- Every pixel on. -/
def litScreen : State := { State.reset with fb := Vector.replicate 32 (Vector.replicate 64 true) }

theorem witness_DoubleDrawRestores :
    (∃ t u, exec (.drw 0 1 5) State.reset = .next t ∧ exec (.drw 0 1 5) t = .next u) ∧
    (∃ px py, State.reset.SpriteOn 0 1 5 px py ∧ State.reset.fb.pixel px py = false) ∧
    (∀ px py, litScreen.SpriteOn 0 1 5 px py → litScreen.fb.pixel px py = true) := by
  refine ⟨⟨_, _, rfl, rfl⟩, ⟨0, 0, ⟨0, 0, by decide⟩, by decide⟩, fun px py _ => ?_⟩
  simp [litScreen, Framebuffer.pixel]

theorem witness_store_allowed :
    (Memory.wf State.reset.config.font State.reset.mem = true ∧ ∀ k, k < 16 → ¬ State.reset.StrictForbids (State.reset.i.toNat + k)) ∧
    (∀ k, k < 3 → ¬ (strictI 0x200 State.reset).StrictForbids ((strictI 0x200 State.reset).i.toNat + k)) ∧
    (∀ k, k < 3 → ¬ (strictI 0xFFD State.reset).StrictForbids ((strictI 0xFFD State.reset).i.toNat + k)) := by
  unfold State.StrictForbids; decide

theorem witness_store_forbidden :
    Memory.wf (strictI 0x1FF State.reset).config.font (strictI 0x1FF State.reset).mem = true ∧
    (strictI 0x1FF State.reset).FirstForbidden 3 0 ∧ (strictI 0xFFE State.reset).FirstForbidden 3 2 ∧
    (strictI 0xFF8 State.reset).FirstForbidden 16 8 := by
  unfold State.FirstForbidden State.StrictForbids; decide

theorem witness_StoreIsSeenByTheNextFetch :
    Memory.wf storing.config.font storing.mem = true ∧ storing.pc.toNat + 2 = storing.i.toNat + 0 ∧
    storing.pc.toNat + 2 < 0x1000 ∧ ∃ t, exec (.store 1) storing = .next t ∧ t.runState = .running :=
  ⟨by decide, by decide, by decide, _, rfl, rfl⟩

theorem witness_SkipsOnKey :
    (let s := holding 7 (State.reset.setV 2 0xF7)
     (7 : Key).val = s.v[(2 : Reg)].toNat % 16 ∧ s.key[(7 : Key)] = true) ∧
    (let s := State.reset.setV 2 0xFF
     (15 : Key).val = s.v[(2 : Reg)].toNat % 16 ∧ s.key[(15 : Key)] = false) := by decide

/-- Held keys are not pressed anew. -/
theorem held_key_is_no_new_press (k : Key) : ¬ NewPress (holding 0xB waiting).key [(0xB, true)] k := by
  rintro ⟨before, after, h, hk⟩
  rcases before with _ | ⟨a, before⟩
  · simp only [List.nil_append, List.cons.injEq, Prod.mk.injEq] at h
    obtain ⟨⟨rfl, -⟩, -⟩ := h
    revert hk; decide
  · simp at h

theorem witness_WaitForKey :
    State.reset.runState = .running ∧ State.reset.await = none ∧ State.reset.key[(0xF : Key)] = false ∧
    (∃ u, step (waiting.withEvent (.keys [(0xF, true)])) = .next u ∧ u.await = none) ∧
    ∀ k, ¬ NewPress State.reset.key [(0xF, false)] k := by
  refine ⟨rfl, rfl, by decide, ⟨_, rfl, rfl⟩, ?_⟩
  rintro k ⟨before, after, h, -⟩
  rcases before with _ | ⟨a, before⟩ <;> simp at h

theorem witness_TimerTick : storing.runState = .running ∧ overflowed.runState ≠ .running := by decide

theorem witness_TicksCountDownAndClamp :
    ∃ s : State, s.runState = .running ∧ s.dt = 10 ∧ s.pending = List.replicate 11 Event.tick ++ [.cycle] :=
  ⟨{ State.reset with dt := 10, pending := List.replicate 11 Event.tick ++ [.cycle] }, rfl, rfl, rfl⟩

/-- Two new presses, of which 4 is the lowest. -/
theorem witness_KeyBatch_ends_the_wait :
    waiting.runState = .running ∧ waiting.await = some 3 ∧ NewPress waiting.key [(9, true), (4, true)] 4 ∧
    ∀ j, NewPress waiting.key [(9, true), (4, true)] j → (4 : Key) ≤ j := by
  refine ⟨rfl, rfl, ⟨[(9, true)], [], rfl, by decide⟩, ?_⟩
  rintro j ⟨before, after, h, -⟩
  rcases before with _ | ⟨a, _ | ⟨b, before⟩⟩ <;> simp at h
  · rw [← h.1]; decide
  · rw [← h.2.1]

theorem witness_KeyBatch_latch_only :
    (∃ s : State, s.runState = .paused) ∧ storing.await = none ∧ (holding 0xB waiting).runState = .running ∧
    (∀ k, ¬ NewPress (holding 0xB waiting).key [(0xB, true)] k) ∧ overflowed.runState = .halted ∧
    (∃ s : State, s.runState = .stopped) :=
  ⟨⟨{ State.reset with runState := .paused }, rfl⟩, rfl, rfl, held_key_is_no_new_press, rfl,
    ⟨{ State.reset with runState := .stopped }, rfl⟩⟩

theorem witness_RunStateTransitions :
    (∃ t, step (State.reset.withEvent .cycle) = .next t ∧ t.runState = .halted) ∧
    (∃ t, step (State.reset.withEvent .tick) = .next t) ∧ (∃ t, step (State.reset.withEvent .loadUnreadable) = .next t) ∧
    (∃ t, step (waiting.withEvent (.keys [(0, true)])) = .next t) ∧
    (∃ t, step (overflowed.withEvent (.load [0x12] 0)) = .next t ∧ [0x12].length ≤ 3584) :=
  ⟨⟨_, rfl, rfl⟩, ⟨_, rfl⟩, ⟨_, rfl⟩, ⟨_, rfl⟩, ⟨_, rfl, by decide⟩⟩

/-- A ROM one byte too long. -/
def longRom : List Byte := List.replicate 3585 0

theorem longRom_length : longRom.length = 3585 := List.length_replicate

theorem witness_HaltedAndStoppedAreTerminal :
    overflowed.runState = .halted ∧ (∀ rom programId, Event.tick = .load rom programId → 3584 < rom.length) ∧
    (∀ rom programId, Event.load longRom 0 = .load rom programId → 3584 < rom.length) := by
  refine ⟨rfl, fun _ _ h => (nomatch h), ?_⟩
  rintro rom programId ⟨⟩
  rw [longRom_length]; decide

theorem witness_PausedFreezesTheMachine : ({ State.reset with runState := .paused } : State).runState = .paused := rfl

theorem witness_RomSizes :
    (List.replicate 3584 (0 : Byte)).length = 3584 ∧ 3584 < longRom.length ∧ ([] : List Byte).length ≤ 3584 :=
  ⟨List.length_replicate, by rw [longRom_length]; decide, by decide⟩

theorem witness_LoadReplacesOrLeaves :
    (∃ m, load overflowed.config [0x12, 0x00] 1 = .ok m) ∧
    load overflowed.config longRom 1 = .error (.romTooLarge 3585) := by
  refine ⟨⟨_, rfl⟩, ?_⟩
  simp [load, maxRomSize, longRom_length]

/-- Registers at both ends of the range, and a state that holds each run-time error; the two machines above meet the
invariant. -/
theorem witness_StatusViewIsConsistent :
    storing.Inv ∧ overflowed.Inv ∧ ({ waiting with await := some 15 } : State).await = some 15 ∧ storing.await = none ∧
    storing.lastError = none ∧ overflowed.lastError = some (.stackOverflow 0x200) ∧
    (HaltedWith storing (.stackUnderflow 0x206)).lastError = some (.stackUnderflow 0x206) ∧
    (HaltedWith storing (.fetchOutOfBounds 0x1000)).lastError = some (.fetchOutOfBounds 0x1000) ∧
    (HaltedWith storing (.unknownOpcode 0xFFFF)).lastError = some (.unknownOpcode 0xFFFF) ∧
    (HaltedWith storing (.strictWriteViolation 0x1FF)).lastError = some (.strictWriteViolation 0x1FF) :=
  ⟨storing_inv, overflowed_inv, rfl, rfl, rfl, rfl, rfl, rfl, rfl, rfl⟩

/-- The status view of R39 for a machine in a wait and for a halted one with the sound on (codes of R39 and R260). -/
theorem test_status_view :
    State.status { waiting with await := some 0xF } =
      { runState := 0, awaitValid := 1, awaitReg := 0xF, lastError := 0, errorInfo := 0, soundOn := 0 } ∧
    overflowed.status =
      { runState := 2, awaitValid := 0, awaitReg := 0, lastError := 3, errorInfo := 0x200, soundOn := 1 } := by decide

theorem witness_StepAppliesTheNextEvent :
    (waiting.withEvent .tick).pending = .tick :: [] ∧ (storing.pending = [] ∧ storing.recurring = .cycle :: []) ∧
    State.reset.pending = [] ∧ State.reset.recurring = [] := by decide

theorem witness_TicksWithoutEnd :
    ∃ s : State, s.runState = .running ∧ s.pending = [] ∧ s.recurring = [.tick] ∧ s.dt = 10 :=
  ⟨{ State.reset with dt := 10, recurring := [.tick] }, rfl, rfl, rfl, rfl⟩

end Sys2Proof.Tests
end

/-! PROOFS. What is the host's own in a state, which no instruction writes; what each event can change; and from both,
that no step changes the configuration. -/

namespace Sys2Proof.Machine

/-! ## Everything that the meanings with a push, a pop or a store can do -/

theorem execCall_cases (nnn : Addr12) (s : State) :
    (s.sp = s.config.stackDepth ∧ execCall nnn s = .next (s.raise (.stackOverflow s.pc))) ∨
    (s.sp ≠ s.config.stackDepth ∧ execCall nnn s = .next { s with
      stack := s.stack.setIfInBounds s.sp (s.pc + 2), sp := s.sp + 1, pc := absoluteAddress nnn }) := by
  rcases s.advance.push_cases s.pc s.advance.pc with ⟨hsp, hpush⟩ | ⟨hsp, hpush⟩
  · exact .inl ⟨hsp, by simp only [execCall, State.execute, hpush]⟩
  · exact .inr ⟨hsp, by simp only [execCall, State.execute, hpush]; rfl⟩

theorem execRet_cases (s : State) :
    (s.sp = 0 ∧ execRet s = .next (s.raise (.stackUnderflow s.pc))) ∨
    (s.sp ≠ 0 ∧ execRet s = .next { s with sp := s.sp - 1, pc := (s.stack[s.sp - 1]?).getD 0 }) := by
  rcases s.advance.pop_cases s.pc with ⟨hsp, hpop⟩ | ⟨hsp, hpop⟩
  · exact .inl ⟨hsp, by simp only [execRet, State.execute, hpop]⟩
  · exact .inr ⟨hsp, by simp only [execRet, State.execute, hpop]; rfl⟩

theorem execLdBVx_cases (x : Reg) (s : State) :
    (∃ e, s.advance.storeBytes s.i.toNat (bcdDigits s.v[x]) = .error e ∧ execLdBVx x s = .next (s.raise e)) ∨
    (∃ t, s.advance.storeBytes s.i.toNat (bcdDigits s.v[x]) = .ok t ∧ execLdBVx x s = .next t) := by
  rcases s.execute_cases fun t => t.storeBytes t.i.toNat (bcdDigits t.v[x]) with ⟨t, hrule, ht⟩ | ⟨e, hrule, he⟩
  · exact .inr ⟨t, hrule, ht⟩
  · exact .inl ⟨e, hrule, he⟩

theorem execStore_cases (x : Reg) (s : State) :
    (∃ e, s.advance.storeBytes s.i.toNat (s.regsUpTo x) = .error e ∧ execStore x s = .next (s.raise e)) ∨
    (∃ t, s.advance.storeBytes s.i.toNat (s.regsUpTo x) = .ok t ∧ execStore x s = .next (t.indexAfterBlock x)) := by
  have hregs : s.advance.regsUpTo x = s.regsUpTo x := rfl
  cases h : s.advance.storeBytes s.i.toNat (s.regsUpTo x) with
  | error e => exact .inl ⟨e, rfl, by simp only [execStore, State.execute, State.advance_i, hregs, h]⟩
  | ok t => exact .inr ⟨t, rfl, by simp only [execStore, State.execute, State.advance_i, hregs, h]⟩

/-! ## What no instruction writes -/

/-- The parts of a state that events alone write or that nothing writes: the key latch (R34), the program's identity
(R38), the configuration (R7, R20) and the events to come (log entry 2). -/
def State.hostOwned (s : State) : Vector Bool 16 × ProgramId × Config × List Event × List Event × Nat :=
  (s.key, s.programId, s.config, s.pending, s.recurring, s.arrivals)

theorem State.hostOwned_eq_iff (s t : State) : t.hostOwned = s.hostOwned ↔
    t.key = s.key ∧ t.programId = s.programId ∧ t.config = s.config ∧ t.pending = s.pending ∧
      t.recurring = s.recurring ∧ t.arrivals = s.arrivals := by
  simp only [State.hostOwned, Prod.mk.injEq]

theorem State.advance_hostOwned (s : State) : s.advance.hostOwned = s.hostOwned := rfl

theorem State.skipIf_hostOwned (s : State) (c : Bool) : (s.skipIf c).hostOwned = s.hostOwned :=
  (congrArg State.hostOwned (s.skipIf_frame c)).trans rfl

theorem State.logicFlag_hostOwned (s : State) : s.logicFlag.hostOwned = s.hostOwned :=
  (congrArg State.hostOwned s.logicFlag_frame).trans rfl

theorem State.addImmediateFlag_hostOwned (s : State) (c : Bool) : (s.addImmediateFlag c).hostOwned = s.hostOwned :=
  (congrArg State.hostOwned (s.addImmediateFlag_frame c)).trans rfl

theorem State.indexAfterBlock_hostOwned (s : State) (x : Reg) : (s.indexAfterBlock x).hostOwned = s.hostOwned :=
  (congrArg State.hostOwned (s.indexAfterBlock_frame x)).trans rfl

theorem State.afterDraw_hostOwned (s : State) : s.afterDraw.hostOwned = s.hostOwned :=
  (congrArg State.hostOwned s.afterDraw_frame).trans rfl

theorem State.setRegsFrom_hostOwned (s : State) (k : Nat) (bs : List Byte) :
    (s.setRegsFrom k bs).hostOwned = s.hostOwned :=
  (congrArg State.hostOwned (s.setRegsFrom_frame k bs)).trans rfl

theorem State.storeBytes_hostOwned {s t : State} {ea : Nat} {bs : List Byte} (h : s.storeBytes ea bs = .ok t) :
    t.hostOwned = s.hostOwned :=
  (congrArg State.hostOwned (State.storeBytes_frame h).1).trans rfl

/-- Every instruction answers a next state with the host's part as it was. -/
theorem exec_next_hostOwned (i : Instr) (s : State) : ∃ t, exec i s = .next t ∧ t.hostOwned = s.hostOwned := by
  cases i with
  | sys nnn => exact ⟨_, rfl, rfl⟩
  | cls => exact ⟨_, rfl, rfl⟩
  | ret => rcases execRet_cases s with ⟨-, h⟩ | ⟨-, h⟩ <;> exact ⟨_, h, rfl⟩
  | jp nnn => exact ⟨_, rfl, rfl⟩
  | call nnn => rcases execCall_cases nnn s with ⟨-, h⟩ | ⟨-, h⟩ <;> exact ⟨_, h, rfl⟩
  | seByte x nn => exact ⟨_, rfl, s.advance.skipIf_hostOwned _⟩
  | sneByte x nn => exact ⟨_, rfl, s.advance.skipIf_hostOwned _⟩
  | seReg x y => exact ⟨_, rfl, s.advance.skipIf_hostOwned _⟩
  | ldByte x nn => exact ⟨_, rfl, rfl⟩
  | addByte x nn => exact ⟨_, rfl, (s.advance.setV x _).addImmediateFlag_hostOwned _⟩
  | ldReg x y => exact ⟨_, rfl, rfl⟩
  | or x y => exact ⟨_, rfl, (s.advance.setV x _).logicFlag_hostOwned⟩
  | and x y => exact ⟨_, rfl, (s.advance.setV x _).logicFlag_hostOwned⟩
  | xor x y => exact ⟨_, rfl, (s.advance.setV x _).logicFlag_hostOwned⟩
  | addReg x y => exact ⟨_, rfl, rfl⟩
  | sub x y => exact ⟨_, rfl, rfl⟩
  | shr x y => exact ⟨_, rfl, rfl⟩
  | subn x y => exact ⟨_, rfl, rfl⟩
  | shl x y => exact ⟨_, rfl, rfl⟩
  | sneReg x y => exact ⟨_, rfl, s.advance.skipIf_hostOwned _⟩
  | ldI nnn => exact ⟨_, rfl, rfl⟩
  | jpV0 nnn => exact ⟨_, rfl, rfl⟩
  | rnd x nn => exact ⟨_, rfl, s.advance.afterDraw_hostOwned⟩
  | drw x y n => exact ⟨_, rfl, rfl⟩
  | skp x => exact ⟨_, rfl, s.advance.skipIf_hostOwned _⟩
  | sknp x => exact ⟨_, rfl, s.advance.skipIf_hostOwned _⟩
  | ldVxDt x => exact ⟨_, rfl, rfl⟩
  | ldVxK x => exact ⟨_, rfl, rfl⟩
  | ldDtVx x => exact ⟨_, rfl, rfl⟩
  | ldStVx x => exact ⟨_, rfl, rfl⟩
  | addIVx x => exact ⟨_, rfl, rfl⟩
  | ldFVx x => exact ⟨_, rfl, rfl⟩
  | ldBVx x =>
    rcases execLdBVx_cases x s with ⟨_, -, h⟩ | ⟨_, hst, h⟩
    · exact ⟨_, h, rfl⟩
    · exact ⟨_, h, (State.storeBytes_hostOwned hst).trans s.advance_hostOwned⟩
  | store x =>
    rcases execStore_cases x s with ⟨_, -, h⟩ | ⟨t, hst, h⟩
    · exact ⟨_, h, rfl⟩
    · have hkept : t.hostOwned = s.hostOwned := (State.storeBytes_hostOwned hst).trans s.advance_hostOwned
      exact ⟨_, h, (t.indexAfterBlock_hostOwned x).trans hkept⟩
  | load x =>
    exact ⟨_, rfl, (State.indexAfterBlock_hostOwned _ x).trans (s.advance.setRegsFrom_hostOwned 0 _)⟩

/-- Every cycle, one that does nothing or halts the machine included, answers a next state with the host's part as it
was. -/
theorem State.cycle_next_hostOwned (s : State) : ∃ t, s.cycle = .next t ∧ t.hostOwned = s.hostOwned := by
  rcases s.cycle_cases with ⟨-, h⟩ | ⟨-, -, ⟨_, -, h⟩ | ⟨_, -, ⟨_, -, h⟩ | ⟨i, -, h⟩⟩⟩
  · exact ⟨_, h, rfl⟩
  · exact ⟨_, h, rfl⟩
  · exact ⟨_, h, rfl⟩
  · rw [h]
    exact exec_next_hostOwned i s

/-! ## What the other events leave alone -/

theorem State.tick_frame (s : State) : s.tick = { s with dt := s.tick.dt, st := s.tick.st } := by
  unfold State.tick
  split <;> rfl

theorem State.pauseToggle_frame (s : State) : s.pauseToggle = { s with runState := s.pauseToggle.runState } := by
  unfold State.pauseToggle
  split <;> rfl

theorem State.quit_frame (s : State) : s.quit = { s with runState := s.quit.runState } := by
  unfold State.quit
  split <;> rfl

theorem State.resolveWait_frame (s : State) (pressed : List Key) :
    s.resolveWait pressed = { s with
      v := (s.resolveWait pressed).v, pc := (s.resolveWait pressed).pc, await := (s.resolveWait pressed).await } := by
  rcases s.resolveWait_cases pressed with ⟨_, _, -, -, -, h⟩ | ⟨-, h⟩
  · rw [h]
    rfl
  · rw [h]

theorem State.keysEvent_frame (s : State) (batch : List (Key × Bool)) :
    s.keysEvent batch = { s with
      key := (s.keysEvent batch).key
      v := (s.keysEvent batch).v
      pc := (s.keysEvent batch).pc
      await := (s.keysEvent batch).await } := by
  have hscan := State.resolveWait_frame { s with key := (s.scanKeys batch).key } (s.scanKeys batch).pressed
  unfold State.keysEvent
  split
  · rw [hscan]
  · rw [hscan]
  · rfl
  · rfl

/-- A load under the machine's own configuration keeps it, whether it succeeds or fails (log entry 8). -/
theorem State.afterLoad_load_config (s : State) (rom : List Byte) (programId : ProgramId) :
    (s.afterLoad (load s.config rom programId)).config = s.config := by
  rcases load_cases s.config rom programId with ⟨-, h⟩ | ⟨-, h⟩ <;> rw [h] <;> rfl

/-! ## The configuration -/

/-- Every event answers a next state with the same configuration. -/
theorem State.applyEvent_next_config (s : State) (e : Event) : ∃ t, s.applyEvent e = .next t ∧ t.config = s.config := by
  cases e with
  | load rom programId => exact ⟨_, rfl, s.afterLoad_load_config rom programId⟩
  | loadUnreadable => exact ⟨_, rfl, rfl⟩
  | cycle =>
    obtain ⟨t, ht, hown⟩ := s.cycle_next_hostOwned
    obtain ⟨-, -, hconfig, -⟩ := (s.hostOwned_eq_iff t).mp hown
    exact ⟨t, ht, hconfig⟩
  | tick => exact ⟨_, rfl, (congrArg State.config s.tick_frame).trans rfl⟩
  | keys batch => exact ⟨_, rfl, (congrArg State.config (s.keysEvent_frame batch)).trans rfl⟩
  | pauseToggle => exact ⟨_, rfl, (congrArg State.config s.pauseToggle_frame).trans rfl⟩
  | quit => exact ⟨_, rfl, (congrArg State.config s.quit_frame).trans rfl⟩

/-- Every step answers a next state with the same configuration. -/
theorem step_next_config (s : State) : ∃ t, step s = .next t ∧ t.config = s.config := by
  obtain ⟨t, ht, hconfig⟩ := s.takeEvent.applyEvent_next_config s.dueEvent
  exact ⟨t, ht, hconfig.trans ((congrArg State.config s.takeEvent_frame).trans rfl)⟩

/-- Settles O14: taking an event and applying it each keep the configuration, for all events and all instructions. -/
theorem configurationNeverChanges : Obligations.ConfigurationNeverChanges := by
  intro s t h
  obtain ⟨u, hu, hconfig⟩ := step_next_config s
  obtain rfl : u = t := Host.Outcome.next.inj (hu.symm.trans h)
  exact hconfig

end Sys2Proof.Machine

/-! PROOFS. Everything that one instruction can do, as a list of its kinds of effect (`Effect`), from which follow what
each piece of state is written by, which instructions change VF, and that every step keeps the two invariants; the state
a load creates; the status view. -/

namespace Sys2Proof.Machine

/-! ## The kinds of instruction, in the words of R21, R22, R24 and R111 -/

/-- A conditional skip (R111). -/
def IsSkip (i : Instr) : Prop :=
  (∃ x nn, i = .seByte x nn ∨ i = .sneByte x nn) ∨ (∃ x y, i = .seReg x y ∨ i = .sneReg x y) ∨
    ∃ x, i = .skp x ∨ i = .sknp x

/-- An instruction that may write a general register (R21). -/
def WritesRegs (i : Instr) : Prop :=
  (∃ x nn, i = .ldByte x nn ∨ i = .addByte x nn ∨ i = .rnd x nn) ∨
  (∃ x y, i = .ldReg x y ∨ i = .or x y ∨ i = .and x y ∨ i = .xor x y ∨ i = .addReg x y ∨ i = .sub x y ∨
    i = .shr x y ∨ i = .subn x y ∨ i = .shl x y) ∨
  (∃ x y n, i = .drw x y n) ∨ ∃ x, i = .ldVxDt x ∨ i = .load x

/-- An instruction that may write VF under a configuration, as its flag or as its destination (R22). -/
def WritesFlag (c : Config) (i : Instr) : Prop :=
  (∃ x y, i = .addReg x y ∨ i = .sub x y ∨ i = .subn x y ∨ i = .shr x y ∨ i = .shl x y) ∨
  (∃ x y n, i = .drw x y n) ∨
  (c.quirkLogicVfReset = true ∧ ∃ x y, i = .or x y ∨ i = .and x y ∨ i = .xor x y) ∨
  (c.addiSetsCarry = true ∧ ∃ x nn, i = .addByte x nn) ∨
  (∃ nn, i = .ldByte vf nn ∨ i = .addByte vf nn ∨ i = .rnd vf nn) ∨
  (∃ y, i = .ldReg vf y ∨ i = .or vf y ∨ i = .and vf y ∨ i = .xor vf y) ∨
  i = .ldVxDt vf ∨ i = .load vf

/-- An instruction that may write I under a configuration (R24). -/
def WritesIndex (c : Config) (i : Instr) : Prop :=
  (∃ nnn, i = .ldI nnn) ∨ (∃ x, i = .addIVx x ∨ i = .ldFVx x) ∨
    (c.quirkMemIncI = true ∧ ∃ x, i = .store x ∨ i = .load x)

/-! ## Everything that one instruction can do -/

/-- The state that instruction `i` makes of `s`, by the kind of its effect: what it writes, and of the values written what
the invariants and R22 need. -/
inductive Effect (i : Instr) (s : State) : State → Prop
  | error (e : CoreError) (he : e.isLoadResult = false) : Effect i s (s.raise e)
  | clear (fb : Framebuffer) (hi : i = .cls) : Effect i s { s with fb := fb, pc := s.pc + 2 }
  | draw (v : Vector Byte 16) (fb : Framebuffer) (hi : ∃ x y n, i = .drw x y n) :
      Effect i s { s with v := v, fb := fb, pc := s.pc + 2 }
  | ret (hi : i = .ret) :
      Effect i s { s with sp := s.sp - 1, pc := (s.stack[s.sp - 1]?).getD 0 }
  | call (nnn : Addr12) (hi : i = .call nnn) (hsp : s.sp ≠ s.config.stackDepth) :
      Effect i s { s with
        stack := s.stack.setIfInBounds s.sp (s.pc + 2), sp := s.sp + 1, pc := absoluteAddress nnn }
  | jump (target : Word) (hi : ∃ nnn, i = .jp nnn ∨ i = .jpV0 nnn) (htarget : target.toNat ≤ 0x10FE) :
      Effect i s { s with pc := target }
  | skip (hi : IsSkip i) : Effect i s { s with pc := s.pc + 4 }
  | noSkip : Effect i s { s with pc := s.pc + 2 }
  | regs (v : Vector Byte 16) (hi : WritesRegs i) (hvf : v[vf] ≠ s.v[vf] → WritesFlag s.config i) :
      Effect i s { s with v := v, pc := s.pc + 2 }
  | random (v : Vector Byte 16) (feed : List Byte) (draws : Nat) (hi : ∃ x nn, i = .rnd x nn)
      (hvf : v[vf] ≠ s.v[vf] → WritesFlag s.config i) :
      Effect i s { s with v := v, pc := s.pc + 2, randFeed := feed, draws := draws }
  | index (a : Word) (hi : WritesIndex s.config i) : Effect i s { s with i := a, pc := s.pc + 2 }
  | store (mem : Memory) (a : Word) (hi : ∃ x, i = .ldBVx x ∨ i = .store x)
      (hwf : Memory.wf s.config.font s.mem = true → Memory.wf s.config.font mem = true)
      (ha : a ≠ s.i → WritesIndex s.config i) :
      Effect i s { s with mem := mem, i := a, pc := s.pc + 2 }
  | load (v : Vector Byte 16) (a : Word) (hi : ∃ x, i = .load x) (hvf : v[vf] ≠ s.v[vf] → WritesFlag s.config i)
      (ha : a ≠ s.i → WritesIndex s.config i) :
      Effect i s { s with v := v, i := a, pc := s.pc + 2 }
  | wait (x : Reg) (hi : i = .ldVxK x) : Effect i s { s with await := some x }
  | delay (dt : Byte) (hi : ∃ x, i = .ldDtVx x) : Effect i s { s with dt := dt, pc := s.pc + 2 }
  | sound (st : Byte) (hi : ∃ x, i = .ldStVx x) : Effect i s { s with st := st, pc := s.pc + 2 }

/-! ### The values written -/

theorem absoluteAddress_toNat (nnn : Addr12) : (absoluteAddress nnn).toNat = nnn.toNat :=
  BitVec.toNat_setWidth_of_le (by decide)

theorem absoluteAddress_le (nnn : Addr12) : (absoluteAddress nnn).toNat ≤ 0x10FE := by
  rw [absoluteAddress_toNat]
  have := nnn.isLt
  omega

/-- BNNN reaches 0x0FF + 0xFFF at most (R26, R116). -/
theorem indexedTarget_le (b : Byte) (nnn : Addr12) : (b.zeroExtend 16 + absoluteAddress nnn).toNat ≤ 0x10FE := by
  have hb : (b.zeroExtend 16).toNat = b.toNat := BitVec.toNat_setWidth_of_le (by decide)
  rw [BitVec.toNat_add, hb, absoluteAddress_toNat]
  have := b.isLt
  have := nnn.isLt
  omega

/-- A write of VX changes VF only where VX is VF. -/
theorem State.eq_vf_of_setV_ne {s : State} {x : Reg} {b : Byte} (h : (s.setV x b).v[vf] ≠ s.v[vf]) : x = vf := by
  by_contra hx
  exact h ((s.setV_get x vf b).trans (if_neg (Ne.symm hx)))

theorem State.logicFlag_off {s : State} (h : s.config.quirkLogicVfReset = false) : s.logicFlag = s := by
  simp only [State.logicFlag, h, Bool.false_eq_true, if_false]

theorem State.addImmediateFlag_off {s : State} (c : Bool) (h : s.config.addiSetsCarry = false) :
    s.addImmediateFlag c = s := by
  simp only [State.addImmediateFlag, h, Bool.false_eq_true, if_false]

/-- A load of V0 to VX changes VF only where VX is VF. -/
theorem State.eq_vf_of_setRegsFrom_ne {s : State} {x : Reg} {bs : List Byte} (hlen : bs.length = x.val + 1)
    (h : (s.setRegsFrom 0 bs).v[vf] ≠ s.v[vf]) : x = vf := by
  by_contra hx
  have hbeyond : bs.length ≤ vf.val := by
    have hne : x.val ≠ vf.val := fun hval => hx (Fin.ext hval)
    have hvf : vf.val = 15 := rfl
    omega
  refine h ((s.setRegsFrom_get 0 bs vf).trans ?_)
  simp only [Nat.zero_le, if_true, Nat.sub_zero, List.getElem?_eq_none hbeyond, Option.getD_none]

/-- A block transfer moves I under its quirk only (R208, R210). -/
theorem State.quirk_of_indexAfterBlock_ne {s : State} {x : Reg} (h : (s.indexAfterBlock x).i ≠ s.i) :
    s.config.quirkMemIncI = true := by
  by_contra hq
  exact h ((s.indexAfterBlock_i x).trans (if_neg hq))

/-! ### The effects of the shared forms -/

theorem Effect.of_skipIf {i : Instr} (s : State) (c : Bool) (hi : IsSkip i) : Effect i s (s.advance.skipIf c) := by
  cases c with
  | false => exact .noSkip
  | true =>
    have hpc : s.pc + 2 + 2 = s.pc + 4 := BitVec.add_assoc s.pc 2 2
    have hskip : s.advance.skipIf true = { s with pc := s.pc + 4 } :=
      (s.advance.skipIf_frame true).trans (congrArg (fun pc => { s with pc := pc }) hpc)
    rw [hskip]
    exact .skip hi

/-- A write of VX and nothing more. -/
theorem Effect.of_setV {i : Instr} (s : State) {x : Reg} (b : Byte) (hi : WritesRegs i)
    (hvf : x = vf → WritesFlag s.config i) : Effect i s (s.advance.setV x b) :=
  .regs _ hi fun h => hvf (State.eq_vf_of_setV_ne (s := s) h)

theorem Effect.of_logicFlag {i : Instr} (s : State) {x : Reg} (b : Byte) (hi : WritesRegs i)
    (hvf : x = vf → WritesFlag s.config i) (hquirk : s.config.quirkLogicVfReset = true → WritesFlag s.config i) :
    Effect i s (s.advance.setV x b).logicFlag := by
  cases hq : s.config.quirkLogicVfReset with
  | false =>
    rw [State.logicFlag_off (s := s.advance.setV x b) hq]
    exact .of_setV s b hi hvf
  | true =>
    rw [State.logicFlag_frame]
    exact .regs _ hi fun _ => hquirk hq

theorem Effect.of_addImmediateFlag {i : Instr} (s : State) {x : Reg} (b : Byte) (c : Bool) (hi : WritesRegs i)
    (hvf : x = vf → WritesFlag s.config i) (hquirk : s.config.addiSetsCarry = true → WritesFlag s.config i) :
    Effect i s ((s.advance.setV x b).addImmediateFlag c) := by
  cases hq : s.config.addiSetsCarry with
  | false =>
    rw [State.addImmediateFlag_off (s := s.advance.setV x b) c hq]
    exact .of_setV s b hi hvf
  | true =>
    rw [State.addImmediateFlag_frame]
    exact .regs _ hi fun _ => hquirk hq

theorem execRnd_effect (x : Reg) (nn : Byte) (s : State) :
    ∃ t, execRnd x nn s = .next t ∧ Effect (.rnd x nn) s t := by
  refine ⟨_, rfl, ?_⟩
  rw [State.afterDraw_frame]
  refine .random _ _ _ ⟨x, nn, rfl⟩ fun h => ?_
  obtain rfl : x = vf := State.eq_vf_of_setV_ne (s := s) h
  exact .inr (.inr (.inr (.inr (.inl ⟨nn, .inr (.inr rfl)⟩))))

theorem execLdBVx_effect (x : Reg) (s : State) : ∃ t, execLdBVx x s = .next t ∧ Effect (.ldBVx x) s t := by
  rcases execLdBVx_cases x s with ⟨e, hst, h⟩ | ⟨t, hst, h⟩
  · obtain ⟨ea, rfl⟩ := State.storeBytes_error hst
    exact ⟨_, h, .error _ rfl⟩
  · obtain ⟨ht, hwf⟩ := State.storeBytes_frame hst
    rw [ht] at h
    exact ⟨_, h, .store t.mem s.i ⟨x, .inl rfl⟩ hwf fun hne => absurd rfl hne⟩

theorem execStore_effect (x : Reg) (s : State) : ∃ t, execStore x s = .next t ∧ Effect (.store x) s t := by
  rcases execStore_cases x s with ⟨e, hst, h⟩ | ⟨t, hst, h⟩
  · obtain ⟨ea, rfl⟩ := State.storeBytes_error hst
    exact ⟨_, h, .error _ rfl⟩
  · obtain ⟨ht, hwf⟩ := State.storeBytes_frame hst
    rw [State.indexAfterBlock_frame, ht] at h
    refine ⟨_, h, .store t.mem _ ⟨x, .inr rfl⟩ hwf fun hne => ?_⟩
    exact .inr (.inr ⟨State.quirk_of_indexAfterBlock_ne (s := { s.advance with mem := t.mem }) hne, x, .inl rfl⟩)

theorem execLoad_effect (x : Reg) (s : State) : ∃ t, execLoad x s = .next t ∧ Effect (.load x) s t := by
  refine ⟨_, rfl, ?_⟩
  rw [State.indexAfterBlock_frame, State.setRegsFrom_frame]
  refine .load _ _ ⟨x, rfl⟩ (fun h => ?_) fun hne => ?_
  · obtain rfl : x = vf :=
      State.eq_vf_of_setRegsFrom_ne (s := s.advance) (s.readBytes_length s.i.toNat (x.val + 1)) h
    exact .inr (.inr (.inr (.inr (.inr (.inr (.inr rfl))))))
  · exact .inr (.inr ⟨State.quirk_of_indexAfterBlock_ne
      (s := { s.advance with v := (s.advance.setRegsFrom 0 (s.readBytes s.i.toNat (x.val + 1))).v }) hne, x, .inr rfl⟩)

/-- Every instruction answers a next state, by one of the effects. -/
theorem exec_next_effect (i : Instr) (s : State) : ∃ t, exec i s = .next t ∧ Effect i s t := by
  cases i with
  | sys nnn => exact ⟨_, rfl, .error _ rfl⟩
  | cls => exact ⟨_, rfl, .clear _ rfl⟩
  | ret =>
    rcases execRet_cases s with ⟨-, h⟩ | ⟨-, h⟩
    · exact ⟨_, h, .error _ rfl⟩
    · exact ⟨_, h, .ret rfl⟩
  | jp nnn => exact ⟨_, rfl, .jump _ ⟨nnn, .inl rfl⟩ (absoluteAddress_le nnn)⟩
  | call nnn =>
    rcases execCall_cases nnn s with ⟨-, h⟩ | ⟨hsp, h⟩
    · exact ⟨_, h, .error _ rfl⟩
    · exact ⟨_, h, .call nnn rfl hsp⟩
  | seByte x nn => exact ⟨_, rfl, .of_skipIf s _ (.inl ⟨x, nn, .inl rfl⟩)⟩
  | sneByte x nn => exact ⟨_, rfl, .of_skipIf s _ (.inl ⟨x, nn, .inr rfl⟩)⟩
  | seReg x y => exact ⟨_, rfl, .of_skipIf s _ (.inr (.inl ⟨x, y, .inl rfl⟩))⟩
  | ldByte x nn =>
    exact ⟨_, rfl, .of_setV s _ (by simp [WritesRegs]) fun hx => by simp [WritesFlag, hx]⟩
  | addByte x nn =>
    exact ⟨_, rfl, .of_addImmediateFlag s _ _ (by simp [WritesRegs]) (fun hx => by simp [WritesFlag, hx])
      fun hq => by simp [WritesFlag, hq]⟩
  | ldReg x y =>
    exact ⟨_, rfl, .of_setV s _ (by simp [WritesRegs]) fun hx => by simp [WritesFlag, hx]⟩
  | or x y =>
    exact ⟨_, rfl, .of_logicFlag s _ (by simp [WritesRegs]) (fun hx => by simp [WritesFlag, hx])
      fun hq => by simp [WritesFlag, hq]⟩
  | and x y =>
    exact ⟨_, rfl, .of_logicFlag s _ (by simp [WritesRegs]) (fun hx => by simp [WritesFlag, hx])
      fun hq => by simp [WritesFlag, hq]⟩
  | xor x y =>
    exact ⟨_, rfl, .of_logicFlag s _ (by simp [WritesRegs]) (fun hx => by simp [WritesFlag, hx])
      fun hq => by simp [WritesFlag, hq]⟩
  | addReg x y => exact ⟨_, rfl, .regs _ (by simp [WritesRegs]) fun _ => by simp [WritesFlag]⟩
  | sub x y => exact ⟨_, rfl, .regs _ (by simp [WritesRegs]) fun _ => by simp [WritesFlag]⟩
  | shr x y => exact ⟨_, rfl, .regs _ (by simp [WritesRegs]) fun _ => by simp [WritesFlag]⟩
  | subn x y => exact ⟨_, rfl, .regs _ (by simp [WritesRegs]) fun _ => by simp [WritesFlag]⟩
  | shl x y => exact ⟨_, rfl, .regs _ (by simp [WritesRegs]) fun _ => by simp [WritesFlag]⟩
  | sneReg x y => exact ⟨_, rfl, .of_skipIf s _ (.inr (.inl ⟨x, y, .inr rfl⟩))⟩
  | ldI nnn => exact ⟨_, rfl, .index _ (.inl ⟨nnn, rfl⟩)⟩
  | jpV0 nnn => exact ⟨_, rfl, .jump _ ⟨nnn, .inr rfl⟩ (indexedTarget_le _ nnn)⟩
  | rnd x nn => exact execRnd_effect x nn s
  | drw x y n => exact ⟨_, rfl, .draw _ _ ⟨x, y, n, rfl⟩⟩
  | skp x => exact ⟨_, rfl, .of_skipIf s _ (.inr (.inr ⟨x, .inl rfl⟩))⟩
  | sknp x => exact ⟨_, rfl, .of_skipIf s _ (.inr (.inr ⟨x, .inr rfl⟩))⟩
  | ldVxDt x =>
    exact ⟨_, rfl, .of_setV s _ (by simp [WritesRegs]) fun hx => by simp [WritesFlag, hx]⟩
  | ldVxK x => exact ⟨_, rfl, .wait x rfl⟩
  | ldDtVx x => exact ⟨_, rfl, .delay _ ⟨x, rfl⟩⟩
  | ldStVx x => exact ⟨_, rfl, .sound _ ⟨x, rfl⟩⟩
  | addIVx x => exact ⟨_, rfl, .index _ (.inr (.inl ⟨x, .inl rfl⟩))⟩
  | ldFVx x => exact ⟨_, rfl, .index _ (.inr (.inl ⟨x, .inr rfl⟩))⟩
  | ldBVx x => exact execLdBVx_effect x s
  | store x => exact execStore_effect x s
  | load x => exact execLoad_effect x s

theorem Effect.of_exec {i : Instr} {s t : State} (h : exec i s = .next t) : Effect i s t := by
  obtain ⟨u, hu, heffect⟩ := exec_next_effect i s
  obtain rfl : u = t := Host.Outcome.next.inj (hu.symm.trans h)
  exact heffect

theorem exec_hostOwned {i : Instr} {s t : State} (h : exec i s = .next t) : t.hostOwned = s.hostOwned := by
  obtain ⟨u, hu, hown⟩ := exec_next_hostOwned i s
  obtain rfl : u = t := Host.Outcome.next.inj (hu.symm.trans h)
  exact hown

/-! ## What each piece of state is written by: the effects that write it, and no other -/

section WriteSets

variable {i : Instr} {s t : State}

theorem Effect.fb_writers (heffect : Effect i s t) (h : t.fb ≠ s.fb) : i = .cls ∨ ∃ x y n, i = .drw x y n := by
  cases heffect with
  | clear fb hi => exact .inl hi
  | draw v fb hi => exact .inr hi
  | _ => exact absurd rfl h

theorem Effect.memRead_writers (heffect : Effect i s t) (h : ∃ a, t.memRead a ≠ s.memRead a) :
    ∃ x, i = .ldBVx x ∨ i = .store x := by
  obtain ⟨a, ha⟩ := h
  cases heffect with
  | store mem a hi => exact hi
  | _ => exact absurd rfl ha

theorem Effect.stack_writers (heffect : Effect i s t) (h : t.stack ≠ s.stack ∨ t.sp ≠ s.sp) :
    i = .ret ∨ ∃ nnn, i = .call nnn := by
  cases heffect with
  | ret hi => exact .inl hi
  | call nnn hi => exact .inr ⟨nnn, hi⟩
  | _ => exact h.elim (absurd rfl) (absurd rfl)

theorem Effect.dt_writers (heffect : Effect i s t) (h : t.dt ≠ s.dt) : ∃ x, i = .ldDtVx x := by
  cases heffect with
  | delay dt hi => exact hi
  | _ => exact absurd rfl h

theorem Effect.st_writers (heffect : Effect i s t) (h : t.st ≠ s.st) : ∃ x, i = .ldStVx x := by
  cases heffect with
  | sound st hi => exact hi
  | _ => exact absurd rfl h

theorem Effect.await_writers (heffect : Effect i s t) (h : t.await ≠ s.await) : ∃ x, i = .ldVxK x := by
  cases heffect with
  | wait x hi => exact ⟨x, hi⟩
  | _ => exact absurd rfl h

theorem Effect.index_writers (heffect : Effect i s t) (h : t.i ≠ s.i) : WritesIndex s.config i := by
  cases heffect with
  | index a hi => exact hi
  | store mem a hi hwf ha => exact ha h
  | load v a hi hvf ha => exact ha h
  | _ => exact absurd rfl h

theorem Effect.regs_writers (heffect : Effect i s t) (h : t.v ≠ s.v) : WritesRegs i := by
  cases heffect with
  | draw v fb hi => exact .inr (.inr (.inl hi))
  | regs v hi => exact hi
  | random v feed draws hi =>
    obtain ⟨x, nn, rfl⟩ := hi
    exact .inl ⟨x, nn, .inr (.inr rfl)⟩
  | load v a hi =>
    obtain ⟨x, rfl⟩ := hi
    exact .inr (.inr (.inr ⟨x, .inr rfl⟩))
  | _ => exact absurd rfl h

theorem Effect.flag_writers (heffect : Effect i s t) (h : t.v[vf] ≠ s.v[vf]) : WritesFlag s.config i := by
  cases heffect with
  | draw v fb hi => exact .inr (.inl hi)
  | regs v hi hvf => exact hvf h
  | random v feed draws hi hvf => exact hvf h
  | load v a hi hvf => exact hvf h
  | _ => exact absurd rfl h

theorem Effect.pc_writers (heffect : Effect i s t) (h : t.pc ≠ s.pc + 2) :
    (∃ nnn, i = .jp nnn ∨ i = .call nnn ∨ i = .jpV0 nnn) ∨ i = .ret ∨ (∃ x, i = .ldVxK x ∧ t.pc = s.pc) ∨
      (t.pc = s.pc + 4 ∧ IsSkip i) ∨ ∃ e, t = HaltedWith s e := by
  cases heffect with
  | error e => exact .inr (.inr (.inr (.inr ⟨e, rfl⟩)))
  | ret hi => exact .inr (.inl hi)
  | call nnn hi => exact .inl ⟨nnn, .inr (.inl hi)⟩
  | jump target hi =>
    obtain ⟨nnn, hjp | hjpV0⟩ := hi
    · exact .inl ⟨nnn, .inl hjp⟩
    · exact .inl ⟨nnn, .inr (.inr hjpV0)⟩
  | skip hi => exact .inr (.inr (.inr (.inl ⟨rfl, hi⟩)))
  | wait x hi => exact .inr (.inr (.inl ⟨x, hi, rfl⟩))
  | _ => exact absurd rfl h

theorem Effect.draw_source_writers (heffect : Effect i s t) (h : t.randFeed ≠ s.randFeed ∨ t.draws ≠ s.draws) :
    ∃ x nn, i = .rnd x nn := by
  cases heffect with
  | random v feed draws hi => exact hi
  | _ => exact h.elim (absurd rfl) (absurd rfl)

theorem Effect.runState_and_error (heffect : Effect i s t) :
    (t.runState = s.runState ∧ t.lastError = s.lastError) ∨ ∃ e, t = HaltedWith s e := by
  cases heffect with
  | error e => exact .inr ⟨e, rfl⟩
  | _ => exact .inl ⟨rfl, rfl⟩

end WriteSets

/-- Settles O15: each clause names the effects that write its piece of state. -/
theorem instructionWriteSets : Obligations.InstructionWriteSets := by
  intro i s t h
  have heffect := Effect.of_exec h
  obtain ⟨hkey, hprogram, hconfig, hpending, hrecurring, harrivals⟩ := (s.hostOwned_eq_iff t).mp (exec_hostOwned h)
  exact ⟨heffect.fb_writers, heffect.memRead_writers, heffect.stack_writers, heffect.dt_writers, heffect.st_writers,
    heffect.await_writers, heffect.index_writers, heffect.regs_writers, heffect.pc_writers,
    heffect.draw_source_writers, hkey, hprogram, hconfig, hpending, hrecurring, harrivals, heffect.runState_and_error⟩

/-- Settles O16: every effect that writes VF is one of an instruction of R22's list. -/
theorem flagWriters : Obligations.FlagWriters :=
  fun _ _ _ h => (Effect.of_exec h).flag_writers

/-! ## Everything that a cycle and the other events can do -/

theorem State.fetch_error {s : State} {e : CoreError} (h : s.fetch = .error e) : e = .fetchOutOfBounds s.pc := by
  rcases s.fetch_cases with ⟨-, hf⟩ | ⟨-, hf⟩
  · exact Except.error.inj (h.symm.trans hf)
  · exact nomatch h.symm.trans hf

theorem State.pc_lt_of_fetch {s : State} {w : Word} (h : s.fetch = .ok w) : s.pc.toNat < 0x1000 := by
  rcases s.fetch_cases with ⟨-, hf⟩ | ⟨hpc, -⟩
  · exact nomatch h.symm.trans hf
  · exact hpc

/-- A cycle does nothing, or has the effect of an instruction fetched below 0x1000, or raises a run-time error; the last
two only while Running and not in a wait. -/
theorem State.cycle_effect {s t : State} (h : s.cycle = .next t) :
    t = s ∨ (s.runState = .running ∧ s.await = none ∧
      ((s.pc.toNat < 0x1000 ∧ ∃ i, Effect i s t) ∨ ∃ e, e.isLoadResult = false ∧ t = s.raise e)) := by
  rcases s.cycle_cases with ⟨-, hc⟩ | ⟨hrun, hawait, ⟨e, hf, hc⟩ | ⟨w, hf, ⟨u, -, hc⟩ | ⟨i, -, hc⟩⟩⟩
  · exact .inl (Host.Outcome.next.inj (h.symm.trans hc))
  · obtain rfl := State.fetch_error hf
    exact .inr ⟨hrun, hawait, .inr ⟨_, rfl, Host.Outcome.next.inj (h.symm.trans hc)⟩⟩
  · exact .inr ⟨hrun, hawait, .inr ⟨_, rfl, Host.Outcome.next.inj (h.symm.trans hc)⟩⟩
  · exact .inr ⟨hrun, hawait, .inl ⟨State.pc_lt_of_fetch hf, i, Effect.of_exec (hc.symm.trans h)⟩⟩

/-- A key batch sets the latch, and ends the wait of a Running machine at most (R285, R286). -/
theorem State.keysEvent_cases (s : State) (batch : List (Key × Bool)) :
    ∃ key, s.keysEvent batch = { s with key := key } ∨
      (s.runState = .running ∧ ∃ x k, s.await = some x ∧ s.keysEvent batch = State.endWait { s with key := key } x k) := by
  have hwait := State.resolveWait_cases { s with key := (s.scanKeys batch).key } (s.scanKeys batch).pressed
  unfold State.keysEvent
  split
  · refine ⟨(s.scanKeys batch).key, ?_⟩
    rcases hwait with ⟨x, k, hrun, hawait, -, h⟩ | ⟨-, h⟩
    · exact .inr ⟨hrun, x, k, hawait, h⟩
    · exact .inl h
  · next hpaused =>
    refine ⟨(s.scanKeys batch).key, ?_⟩
    rcases hwait with ⟨x, k, hrun, -⟩ | ⟨-, h⟩
    · exact nomatch hpaused.symm.trans hrun
    · exact .inl h
  · exact ⟨s.key, .inl rfl⟩
  · exact ⟨s.key, .inl rfl⟩

/-- A run-state event leaves the machine alone or moves it from one run state other than Halted to another (R275). -/
theorem State.pauseToggle_cases (s : State) :
    s.pauseToggle = s ∨ (s.runState ≠ .halted ∧ ∃ r, r ≠ .halted ∧ s.pauseToggle = { s with runState := r }) := by
  unfold State.pauseToggle
  cases s.runState with
  | running => exact .inr ⟨nofun, .paused, nofun, rfl⟩
  | paused => exact .inr ⟨nofun, .running, nofun, rfl⟩
  | halted => exact .inl rfl
  | stopped => exact .inl rfl

/-- As `pauseToggle_cases`: Quit too moves live run states only (R275, R277). -/
theorem State.quit_cases (s : State) :
    s.quit = s ∨ (s.runState ≠ .halted ∧ ∃ r, r ≠ .halted ∧ s.quit = { s with runState := r }) := by
  unfold State.quit
  cases s.runState with
  | running => exact .inr ⟨nofun, .stopped, nofun, rfl⟩
  | paused => exact .inr ⟨nofun, .stopped, nofun, rfl⟩
  | halted => exact .inl rfl
  | stopped => exact .inl rfl

/-! ## The machine invariant -/

/-- The fields that `State.Inv` speaks of: an update of any other leaves it standing. -/
def State.invPart (s : State) : Config × Memory × Nat × RunState × Option Reg × Option CoreError :=
  (s.config, s.mem, s.sp, s.runState, s.await, s.lastError)

theorem State.Inv.of_invPart_eq {s t : State} (hs : s.Inv) (h : t.invPart = s.invPart) : t.Inv := by
  simp only [State.invPart, Prod.mk.injEq] at h
  obtain ⟨hconfig, hmem, hsp, hrun, hawait, herror⟩ := h
  obtain ⟨h1, h2, h3, h4, h5, h6⟩ := hs
  exact ⟨hconfig ▸ h1, hconfig ▸ hmem ▸ h2, hconfig ▸ hsp ▸ h3, herror ▸ hrun ▸ h4, hawait ▸ hrun ▸ h5, herror ▸ h6⟩

/-- An error is taken outside a wait (R36, R37). -/
theorem State.Inv.raise {s : State} (hs : s.Inv) (hawait : s.await = none) {e : CoreError} (he : e.isLoadResult = false) :
    (s.raise e).Inv :=
  { configValid := hs.configValid
    memory := hs.memory
    stackBound := hs.stackBound
    errorIffHalted := ⟨fun _ => rfl, fun _ => rfl⟩
    noWaitWhenHalted := fun _ => hawait
    noLoadError := by rintro _ ⟨⟩; exact he }

theorem State.Inv.withRunState {s : State} (hs : s.Inv) (hlive : s.runState ≠ .halted) {r : RunState} (hr : r ≠ .halted) :
    State.Inv { s with runState := r } :=
  { configValid := hs.configValid
    memory := hs.memory
    stackBound := hs.stackBound
    errorIffHalted := ⟨fun herror => absurd (hs.errorIffHalted.mp herror) hlive, fun h => absurd h hr⟩
    noWaitWhenHalted := fun h => absurd h hr
    noLoadError := hs.noLoadError }

/-- A wait begins and ends on a Running machine, where the invariant leaves `await` free. -/
theorem State.Inv.withAwait {s : State} (hs : s.Inv) (hrun : s.runState = .running) (w : Option Reg) :
    State.Inv { s with await := w } :=
  { configValid := hs.configValid
    memory := hs.memory
    stackBound := hs.stackBound
    errorIffHalted := hs.errorIffHalted
    noWaitWhenHalted := fun h => nomatch hrun.symm.trans h
    noLoadError := hs.noLoadError }

theorem Effect.keeps_inv {i : Instr} {s t : State} (heffect : Effect i s t) (hs : s.Inv) (hrun : s.runState = .running)
    (hawait : s.await = none) : t.Inv := by
  cases heffect with
  | error e he => exact hs.raise hawait he
  | ret => exact { hs with stackBound := Nat.le_trans (Nat.sub_le s.sp 1) hs.stackBound }
  | call nnn hi hsp => exact { hs with stackBound := Nat.lt_of_le_of_ne hs.stackBound hsp }
  | store mem a hi hwf => exact { hs with memory := hwf hs.memory }
  | wait x => exact hs.withAwait hrun (some x)
  | _ => exact hs.of_invPart_eq rfl

theorem reset_inv : State.reset.Inv :=
  { configValid := rfl
    memory := rfl
    stackBound := Nat.zero_le _
    errorIffHalted := ⟨nofun, nofun⟩
    noWaitWhenHalted := nofun
    noLoadError := nofun }

theorem load_inv {c : Config} {rom : List Byte} {programId : ProgramId} {m : State} (hc : c.valid = true)
    (h : load c rom programId = .ok m) : m.Inv := by
  rcases load_cases c rom programId with ⟨-, hload⟩ | ⟨hlen, hload⟩
  · exact nomatch h.symm.trans hload
  · obtain rfl := Except.ok.inj (h.symm.trans hload)
    have hsize : 0x200 + rom.length ≤ 0x1000 := Nat.add_le_add_left hlen 0x200
    exact { reset_inv with
      configValid := hc
      memory := Memory.ofBytes_wfFrom c.font rom (Nat.zero_le _) hsize
      stackBound := Nat.zero_le _ }

theorem State.afterLoad_inv {s : State} (hs : s.Inv) {result : Except CoreError State}
    (hresult : ∀ m, result = .ok m → m.Inv) : (s.afterLoad result).Inv := by
  cases result with
  | ok m => exact (hresult m rfl).of_invPart_eq rfl
  | error e => exact hs

theorem State.cycle_keeps_inv {s t : State} (hs : s.Inv) (h : s.cycle = .next t) : t.Inv := by
  rcases State.cycle_effect h with rfl | ⟨hrun, hawait, ⟨-, i, heffect⟩ | ⟨e, he, rfl⟩⟩
  · exact hs
  · exact heffect.keeps_inv hs hrun hawait
  · exact hs.raise hawait he

theorem State.keysEvent_keeps_inv {s : State} (hs : s.Inv) (batch : List (Key × Bool)) : (s.keysEvent batch).Inv := by
  obtain ⟨key, h | ⟨hrun, x, k, -, h⟩⟩ := s.keysEvent_cases batch
  · exact hs.of_invPart_eq ((congrArg State.invPart h).trans rfl)
  · exact (hs.withAwait hrun none).of_invPart_eq ((congrArg State.invPart h).trans rfl)

/-- Every event keeps the invariant. -/
theorem State.applyEvent_keeps_inv {s t : State} {e : Event} (hs : s.Inv) (h : s.applyEvent e = .next t) : t.Inv := by
  cases e with
  | cycle => exact State.cycle_keeps_inv hs h
  | load rom programId =>
    obtain rfl := Host.Outcome.next.inj h
    exact State.afterLoad_inv hs fun m hm => load_inv hs.configValid hm
  | loadUnreadable =>
    obtain rfl := Host.Outcome.next.inj h
    exact hs
  | tick =>
    obtain rfl := Host.Outcome.next.inj h
    exact hs.of_invPart_eq ((congrArg State.invPart s.tick_frame).trans rfl)
  | keys batch =>
    obtain rfl := Host.Outcome.next.inj h
    exact State.keysEvent_keeps_inv hs batch
  | pauseToggle =>
    obtain rfl := Host.Outcome.next.inj h
    rcases s.pauseToggle_cases with hp | ⟨hlive, r, hr, hp⟩ <;> rw [hp]
    · exact hs
    · exact hs.withRunState hlive hr
  | quit =>
    obtain rfl := Host.Outcome.next.inj h
    rcases s.quit_cases with hq | ⟨hlive, r, hr, hq⟩ <;> rw [hq]
    · exact hs
    · exact hs.withRunState hlive hr

/-- Settles O10: taking an event leaves the invariant's fields alone, and applying it keeps the invariant. -/
theorem stepKeepsTheInvariant : Obligations.StepKeepsTheInvariant :=
  fun s _ hs h =>
    State.applyEvent_keeps_inv (hs.of_invPart_eq ((congrArg State.invPart s.takeEvent_frame).trans rfl)) h

/-! ## The bound on PC -/

/-- The fields that `State.PcBounded` speaks of. -/
def State.pcPart (s : State) : Word × Vector Word 16 × Option Reg := (s.pc, s.stack, s.await)

theorem State.PcBounded.of_pcPart_eq {s t : State} (hs : s.PcBounded) (h : t.pcPart = s.pcPart) : t.PcBounded := by
  simp only [State.pcPart, Prod.mk.injEq] at h
  obtain ⟨hpc, hstack, hawait⟩ := h
  obtain ⟨h1, h2, h3⟩ := hs
  exact ⟨hpc ▸ h1, hstack ▸ h2, hawait ▸ hpc ▸ h3⟩

/-- Outside a wait, PC may move to any address within the bound. -/
theorem State.PcBounded.withPc {s : State} (hs : s.PcBounded) (hawait : s.await = none) {pc : Word}
    (hpc : pc.toNat ≤ 0x10FE) : State.PcBounded { s with pc := pc } :=
  { pc := hpc
    stack := hs.stack
    waiting := fun h => by rw [hawait] at h; cases h }

/-- From an address that a fetch accepts, PC advances by 2 or 4 without reaching the bound. -/
theorem pc_add_le {pc d : Word} (hpc : pc.toNat < 0x1000) (hd : d.toNat ≤ 4) : (pc + d).toNat ≤ 0x10FE := by
  rw [BitVec.toNat_add]
  omega

/-- A RET takes an entry of the stack, or 0 where there is none (R26, log entry 6). -/
theorem State.PcBounded.popped_le {s : State} (hs : s.PcBounded) (n : Nat) : ((s.stack[n]?).getD 0).toNat ≤ 0x10FE := by
  by_cases hn : n < 16
  · rw [Vector.getElem?_eq_getElem hn]
    exact hs.stack ⟨n, hn⟩
  · rw [Vector.getElem?_eq_none (Nat.le_of_not_lt hn)]
    decide

theorem State.PcBounded.pushed {s : State} (hs : s.PcBounded) (n : Nat) {a : Word} (ha : a.toNat ≤ 0x10FE) :
    State.PcBounded { s with stack := s.stack.setIfInBounds n a } :=
  { pc := hs.pc
    stack := fun j => by
      simp only [Fin.getElem_fin, Vector.getElem_setIfInBounds]
      split
      · exact ha
      · exact hs.stack j
    waiting := hs.waiting }

theorem Effect.keeps_pcBounded {i : Instr} {s t : State} (heffect : Effect i s t) (hs : s.PcBounded)
    (hpc : s.pc.toNat < 0x1000) (hawait : s.await = none) : t.PcBounded := by
  have hnext : (s.pc + 2).toNat ≤ 0x10FE := pc_add_le hpc (by decide)
  cases heffect with
  | error e => exact hs.of_pcPart_eq rfl
  | ret => exact (hs.withPc hawait (hs.popped_le _)).of_pcPart_eq rfl
  | call nnn =>
    exact ((hs.pushed s.sp hnext).withPc hawait (absoluteAddress_le nnn)).of_pcPart_eq rfl
  | jump target hi htarget => exact hs.withPc hawait htarget
  | skip => exact hs.withPc hawait (pc_add_le hpc (by decide))
  | wait x => exact { hs with waiting := fun _ => hpc }
  | _ => exact (hs.withPc hawait hnext).of_pcPart_eq rfl

theorem reset_pcBounded : State.reset.PcBounded :=
  { pc := by decide
    stack := by decide
    waiting := nofun }

theorem load_pcBounded {c : Config} {rom : List Byte} {programId : ProgramId} {m : State}
    (h : load c rom programId = .ok m) : m.PcBounded := by
  rcases load_cases c rom programId with ⟨-, hload⟩ | ⟨-, hload⟩
  · exact nomatch h.symm.trans hload
  · obtain rfl := Except.ok.inj (h.symm.trans hload)
    exact reset_pcBounded.of_pcPart_eq rfl

theorem State.afterLoad_pcBounded {s : State} (hs : s.PcBounded) {result : Except CoreError State}
    (hresult : ∀ m, result = .ok m → m.PcBounded) : (s.afterLoad result).PcBounded := by
  cases result with
  | ok m => exact (hresult m rfl).of_pcPart_eq rfl
  | error e => exact hs

theorem State.cycle_keeps_pcBounded {s t : State} (hs : s.PcBounded) (h : s.cycle = .next t) : t.PcBounded := by
  rcases State.cycle_effect h with rfl | ⟨-, hawait, ⟨hpc, i, heffect⟩ | ⟨e, -, rfl⟩⟩
  · exact hs
  · exact heffect.keeps_pcBounded hs hpc hawait
  · exact hs.of_pcPart_eq rfl

/-- The end of a wait advances PC from the address of the FX0A, which a fetch accepted. -/
theorem State.PcBounded.endWait {s : State} (hs : s.PcBounded) {x : Reg} (k : Key) (hawait : s.await = some x) :
    (s.endWait x k).PcBounded :=
  { pc := pc_add_le (hs.waiting (by rw [hawait]; rfl)) (by decide)
    stack := hs.stack
    waiting := nofun }

theorem State.keysEvent_keeps_pcBounded {s : State} (hs : s.PcBounded) (batch : List (Key × Bool)) :
    (s.keysEvent batch).PcBounded := by
  obtain ⟨key, h | ⟨-, x, k, hawait, h⟩⟩ := s.keysEvent_cases batch
  · exact hs.of_pcPart_eq ((congrArg State.pcPart h).trans rfl)
  · exact (hs.endWait k hawait).of_pcPart_eq ((congrArg State.pcPart h).trans rfl)

/-- Every event keeps the bound. -/
theorem State.applyEvent_keeps_pcBounded {s t : State} {e : Event} (hs : s.PcBounded) (h : s.applyEvent e = .next t) :
    t.PcBounded := by
  cases e with
  | cycle => exact State.cycle_keeps_pcBounded hs h
  | load rom programId =>
    obtain rfl := Host.Outcome.next.inj h
    exact State.afterLoad_pcBounded hs fun m hm => load_pcBounded hm
  | loadUnreadable =>
    obtain rfl := Host.Outcome.next.inj h
    exact hs
  | tick =>
    obtain rfl := Host.Outcome.next.inj h
    exact hs.of_pcPart_eq ((congrArg State.pcPart s.tick_frame).trans rfl)
  | keys batch =>
    obtain rfl := Host.Outcome.next.inj h
    exact State.keysEvent_keeps_pcBounded hs batch
  | pauseToggle =>
    obtain rfl := Host.Outcome.next.inj h
    exact hs.of_pcPart_eq ((congrArg State.pcPart s.pauseToggle_frame).trans rfl)
  | quit =>
    obtain rfl := Host.Outcome.next.inj h
    exact hs.of_pcPart_eq ((congrArg State.pcPart s.quit_frame).trans rfl)

/-- Settles O11: taking an event leaves the bound's fields alone, and applying it keeps the bound. -/
theorem stepKeepsPcBounded : Obligations.StepKeepsPcBounded :=
  fun s _ hs h =>
    State.applyEvent_keeps_pcBounded (hs.of_pcPart_eq ((congrArg State.pcPart s.takeEvent_frame).trans rfl)) h

/-- Settles O12: the same two facts about the state after reset that `load_inv` and `load_pcBounded` start from. -/
theorem resetMeetsTheInvariants : Obligations.ResetMeetsTheInvariants := ⟨reset_inv, reset_pcBounded⟩

/-! ## The state a load creates -/

/-- Settles O52: the empty ROM places no cell, and the default configuration is the one of the state after reset. -/
theorem resetIsALoadOfTheEmptyRom : Obligations.ResetIsALoadOfTheEmptyRom := rfl

/-- What a machine's memory reads as after a load (R300): the ROM from 0x200 on, and every other address as unlisted. -/
theorem memRead_load {c : Config} {rom : List Byte} {programId : ProgramId} {m : State}
    (h : load c rom programId = .ok m) {a : Nat} (ha : a < 0x1000) :
    m.memRead a = if 0x200 ≤ a then (rom[a - 0x200]?).getD (Memory.unlisted c.font a) else Memory.unlisted c.font a := by
  rcases load_cases c rom programId with ⟨-, hload⟩ | ⟨hlen, hload⟩
  · exact nomatch h.symm.trans hload
  · obtain rfl := Except.ok.inj (h.symm.trans hload)
    have hsize : 0x200 + rom.length ≤ 0x1000 := Nat.add_le_add_left hlen 0x200
    rw [State.memRead, Nat.mod_eq_of_lt ha]
    exact Memory.read_ofBytes c.font rom 0x200 a hsize

theorem Memory.unlisted_glyph (font : Font) {d k : Nat} (hd : d < 16) (hk : k < 5) :
    Memory.unlisted font (5 * d + k) = (font[d])[k] := by
  have hdiv : (5 * d + k) / 5 = d := by omega
  have hmod : (5 * d + k) % 5 = k := by omega
  rw [Memory.unlisted, dif_pos (by omega)]
  simp only [hdiv, hmod]

theorem Memory.unlisted_beyond_font (font : Font) {a : Nat} (ha : 0x50 ≤ a) : Memory.unlisted font a = 0 :=
  dif_neg (Nat.not_lt.mpr ha)

/-- Settles O50: the four parts of memory by `memRead_load`, and every other field as the state after reset has it. -/
theorem loadedMachine : Obligations.LoadedMachine := by
  intro c rom programId m h
  have hread {a : Nat} (ha : a < 0x1000) := memRead_load h ha
  rcases load_cases c rom programId with ⟨-, hload⟩ | ⟨hlen, hload⟩
  · exact nomatch h.symm.trans hload
  obtain rfl := Except.ok.inj (h.symm.trans hload)
  have hsize : 0x200 + rom.length ≤ 0x1000 := Nat.add_le_add_left hlen 0x200
  refine ⟨?glyphs, ?gap, ?rom, ?rest, ?regs, rfl, rfl, rfl, ?stack, rfl, rfl, Framebuffer.pixel_clear, ?key,
    rfl, rfl, rfl, rfl, rfl⟩
  case glyphs =>
    intro d k hd hk
    rw [hread (by omega), if_neg (by omega)]
    exact Memory.unlisted_glyph c.font hd hk
  case gap =>
    intro a hfont hrom
    rw [hread (by omega), if_neg (by omega)]
    exact Memory.unlisted_beyond_font c.font hfont
  case rom =>
    intro k hk
    rw [hread (by omega), if_pos (by omega), Nat.add_sub_cancel_left, List.getElem?_eq_getElem hk]
    rfl
  case rest =>
    intro a hrom ha
    rw [hread ha, if_pos (by omega), List.getElem?_eq_none (by omega)]
    exact Memory.unlisted_beyond_font c.font (by omega)
  case regs => exact fun r => Vector.getElem_replicate r.isLt
  case stack => exact fun j => Vector.getElem_replicate j.isLt
  case key => exact fun k => Vector.getElem_replicate k.isLt

/-! ## The status view -/

theorem RunState.code_inj {r r' : RunState} : r.code = r'.code ↔ r = r' := by
  cases r <;> cases r' <;> decide

theorem ofBool_eq_one_iff (b : Bool) : BitVec.ofBool b = 1 ↔ b = true := by
  cases b <;> decide

theorem State.soundOn_iff (s : State) : s.soundOn = true ↔ s.st ≠ 0 := by
  rw [State.soundOn, decide_eq_true_eq, Nat.pos_iff_ne_zero]
  exact (BitVec.toNat_inj (y := 0)).not

/-- A run-time error has a code of 3 or more (R260). -/
theorem CoreError.three_le_code {e : CoreError} (he : e.isLoadResult = false) : 3 ≤ e.code.toNat := by
  cases e with
  | romTooLarge n => exact nomatch he
  | romUnreadable => exact nomatch he
  | stackOverflow pc0 => exact (by decide : 3 ≤ (3 : BitVec 3).toNat)
  | stackUnderflow pc0 => exact (by decide : 3 ≤ (4 : BitVec 3).toNat)
  | fetchOutOfBounds pc => exact (by decide : 3 ≤ (5 : BitVec 3).toNat)
  | unknownOpcode w => exact (by decide : 3 ≤ (6 : BitVec 3).toNat)
  | strictWriteViolation ea => exact (by decide : 3 ≤ (7 : BitVec 3).toNat)

theorem State.status_awaitReg_toNat {s : State} {x : Reg} (h : s.await = some x) : s.status.awaitReg.toNat = x.val := by
  simp only [State.status, h, BitVec.toNat_ofNat]
  exact Nat.mod_eq_of_lt x.isLt

theorem State.status_no_wait {s : State} (h : s.await = none) : s.status.awaitReg = 0 := by
  simp only [State.status, h]

theorem State.status_no_error {s : State} (h : s.lastError = none) :
    s.status.lastError = 0 ∧ s.status.errorInfo = 0 := by
  simp only [State.status, h, and_self]

theorem State.status_error {s : State} {e : CoreError} (h : s.lastError = some e) :
    s.status.lastError = e.code ∧ s.status.errorInfo = e.info := by
  simp only [State.status, h, and_self]

/-- Under the invariant an error held shows a code of 3 or more. -/
theorem State.Inv.three_le_status {s : State} (hs : s.Inv) {e : CoreError} (h : s.lastError = some e) :
    3 ≤ s.status.lastError.toNat := by
  rw [(State.status_error h).1]
  exact CoreError.three_le_code (hs.noLoadError e h)

/-- Under the invariant an error code is shown exactly by a Halted machine (R37). -/
theorem State.Inv.shows_error_iff {s : State} (hs : s.Inv) : s.status.lastError ≠ 0 ↔ s.runState = .halted := by
  rw [← hs.errorIffHalted]
  cases herror : s.lastError with
  | none => simp only [(State.status_no_error herror).1, ne_eq, not_true, Option.isSome_none, Bool.false_eq_true]
  | some e =>
    have hcode := hs.three_le_status herror
    refine iff_of_true (fun hzero => ?_) rfl
    rw [hzero] at hcode
    exact absurd hcode (by decide)

/-- Settles O53: field by field, and the last two clauses from the invariant. -/
theorem statusViewIsConsistent : Obligations.StatusViewIsConsistent := by
  intro s
  refine ⟨RunState.code_inj (r' := .running), RunState.code_inj (r' := .paused), RunState.code_inj (r' := .halted),
    RunState.code_inj (r' := .stopped), ofBool_eq_one_iff _, fun x => State.status_awaitReg_toNat,
    State.status_no_wait, State.status_no_error, fun _ => State.status_error, fun _ => State.status_error,
    fun _ => State.status_error, fun _ => State.status_error, fun _ => State.status_error,
    (ofBool_eq_one_iff _).trans s.soundOn_iff, fun hs => ⟨?_, fun hshown => ?_⟩⟩
  · exact hs.shows_error_iff.trans (RunState.code_inj (r' := .halted)).symm
  · have hhalted : s.runState = .halted := hs.shows_error_iff.mp hshown
    obtain ⟨e, he⟩ := Option.isSome_iff_exists.mp (hs.errorIffHalted.mpr hhalted)
    refine ⟨?_, hs.three_le_status he⟩
    simp only [State.status, hs.noWaitWhenHalted hhalted]
    rfl

end Sys2Proof.Machine

/-! PROOFS. What a block store leaves in memory, and that the next fetch reads it. -/

namespace Sys2Proof.Machine

/-! ## A block store -/

/-- A block store that answers has stored its first byte, and then the rest from there (R65). -/
theorem State.storeBytes_cons_ok {s t : State} {ea : Nat} {b : Byte} {bs : List Byte}
    (h : s.storeBytes ea (b :: bs) = .ok t) : (s.poke ea b).storeBytes (ea + 1) bs = .ok t := by
  rw [State.storeBytes] at h
  rcases s.memWrite_cases ea b with ⟨-, hw⟩ | ⟨-, hw⟩ <;> rw [hw] at h
  · cases h
  · exact h

/-- An address outside the block reads as before (R69). -/
theorem State.memRead_storeBytes_outside {s t : State} {ea : Nat} {bs : List Byte}
    (hwf : Memory.wf s.config.font s.mem = true) (h : s.storeBytes ea bs = .ok t) {a : Nat}
    (ha : ∀ k, k < bs.length → a % 0x1000 ≠ (ea + k) % 0x1000) : t.memRead a = s.memRead a := by
  induction bs generalizing s ea with
  | nil =>
    obtain rfl : s = t := Except.ok.inj h
    rfl
  | cons b bs ih =>
    have htail : ∀ k, k < bs.length → a % 0x1000 ≠ (ea + 1 + k) % 0x1000 := fun k hk => by
      rw [Nat.add_right_comm]
      exact ha (k + 1) (Nat.succ_lt_succ hk)
    calc t.memRead a = (s.poke ea b).memRead a := ih (s.poke_wf ea b hwf) (State.storeBytes_cons_ok h) htail
      _ = s.memRead a := (s.memRead_poke ea a b hwf).trans (if_neg (ha 0 (Nat.succ_pos _)))

/-- An address of the block reads as the byte stored there: a block no longer than memory overwrites none of itself. -/
theorem State.memRead_storeBytes_inside {s t : State} {ea : Nat} {bs : List Byte}
    (hwf : Memory.wf s.config.font s.mem = true) (hlen : bs.length ≤ 0x1000) (h : s.storeBytes ea bs = .ok t) {k : Nat}
    (hk : k < bs.length) : t.memRead (ea + k) = (bs[k]?).getD 0 := by
  induction bs generalizing s ea k with
  | nil => exact absurd hk (Nat.not_lt_zero k)
  | cons b bs ih =>
    rw [List.length_cons] at hlen
    have hpoke := s.poke_wf ea b hwf
    have hrest := State.storeBytes_cons_ok h
    cases k with
    | zero =>
      have hfirst : ∀ j, j < bs.length → ea % 0x1000 ≠ (ea + 1 + j) % 0x1000 := by omega
      calc t.memRead ea = (s.poke ea b).memRead ea := State.memRead_storeBytes_outside hpoke hrest hfirst
        _ = b := (s.memRead_poke ea ea b hwf).trans (if_pos rfl)
    | succ k =>
      have haddr : ea + (k + 1) = ea + 1 + k := by omega
      rw [haddr, List.getElem?_cons_succ]
      exact ih hpoke (Nat.le_of_succ_le hlen) hrest (Nat.lt_of_succ_lt_succ hk)

/-- A block store from I on, that answers, has stored its bytes. -/
theorem State.blockStored_of_storeBytes {s t : State} {bs : List Byte} (hwf : Memory.wf s.config.font s.mem = true)
    (hlen : bs.length ≤ 0x1000) (h : s.storeBytes s.i.toNat bs = .ok t) :
    BlockStored s t bs.length fun k => (bs[k]?).getD 0 :=
  ⟨fun _ => State.memRead_storeBytes_inside hwf hlen h, fun _ => State.memRead_storeBytes_outside hwf h⟩

/-! ## The store of V0 to VX -/

theorem State.regsUpTo_length (s : State) (x : Reg) : (s.regsUpTo x).length = x.val + 1 := by
  rw [State.regsUpTo, List.length_take, Vector.length_toList]
  exact Nat.min_eq_left x.isLt

theorem State.regsUpTo_get (s : State) (x : Reg) {k : Nat} (hk : k < x.val + 1) : (s.regsUpTo x)[k]? = s.v[k]? := by
  rw [State.regsUpTo, List.getElem?_take_of_lt hk, Vector.getElem?_toList]

theorem State.memRead_indexAfterBlock (s : State) (x : Reg) (a : Nat) : (s.indexAfterBlock x).memRead a = s.memRead a :=
  (congrArg (State.memRead · a) (s.indexAfterBlock_frame x)).trans rfl

/-- FX55, its store answering, has stored V0 to VX from the old I on (R208). -/
theorem State.blockStored_of_regsUpTo {s t : State} {x : Reg} (hwf : Memory.wf s.config.font s.mem = true)
    (h : s.advance.storeBytes s.i.toNat (s.regsUpTo x) = .ok t) :
    BlockStored s (t.indexAfterBlock x) (x.val + 1) fun k => (s.v[k]?).getD 0 := by
  have hlen := s.regsUpTo_length x
  have hfits : (s.regsUpTo x).length ≤ 0x1000 := by
    have hx := x.isLt
    omega
  obtain ⟨hinside, houtside⟩ := State.blockStored_of_storeBytes (s := s.advance) hwf hfits h
  rw [hlen] at hinside houtside
  refine ⟨fun k hk => ?_, fun a ha => (t.memRead_indexAfterBlock x a).trans (houtside a ha)⟩
  calc (t.indexAfterBlock x).memRead (s.i.toNat + k) = t.memRead (s.i.toNat + k) := t.memRead_indexAfterBlock x _
    _ = ((s.regsUpTo x)[k]?).getD 0 := hinside k hk
    _ = (s.v[k]?).getD 0 := by rw [s.regsUpTo_get x hk]

/-- A fetch from a PC inside memory reads the two bytes from PC on (R66). -/
theorem State.fetch_of_pc_lt {s : State} (h : s.pc.toNat < 0x1000) :
    s.fetch = .ok (wordOfBytes (s.memRead s.pc.toNat) (s.memRead (s.pc.toNat + 1))) :=
  (s.fetch_cases.resolve_left fun hout => Nat.not_le_of_lt h hout.1).2

/-- Settles O39: a store that answers has put Vk and V(k+1) at the two addresses that the fetch from PC + 2 reads; one
that raises leaves the machine Halted. -/
theorem storeIsSeenByTheNextFetch : Obligations.StoreIsSeenByTheNextFetch := by
  intro x s t k hwf hexec hrun haddr hk hpc
  rcases execStore_cases x s with ⟨e, -, herror⟩ | ⟨u, hstore, hnext⟩
  · obtain rfl := Host.Outcome.next.inj (hexec.symm.trans herror)
    cases hrun
  · obtain rfl := Host.Outcome.next.inj (hexec.symm.trans hnext)
    obtain ⟨hstored, -⟩ := State.blockStored_of_regsUpTo hwf hstore
    have hnextPc : (u.indexAfterBlock x).pc = s.pc + 2 := by
      rw [State.indexAfterBlock_frame, (State.storeBytes_frame hstore).1, State.advance_pc]
    have hpcNat : (u.indexAfterBlock x).pc.toNat = s.i.toNat + k := by
      rw [hnextPc]
      bv_omega
    rw [State.fetch_of_pc_lt (by omega), hpcNat, hstored k (by omega), Nat.add_assoc, hstored (k + 1) (by omega)]

end Sys2Proof.Machine

/-! PROOFS. The encoder and the decoder are inverse to each other; the decoder follows the opcode map, and rejects the
reserved words and no others; a Cycle runs what the two bytes at PC decode to. -/

namespace Sys2Proof

/-! ## The fields of a word (R81 to R83) -/

@[simp] theorem regOfField_fieldOfReg (r : Reg) : regOfField (fieldOfReg r) = r :=
  Fin.ext ((BitVec.toNat_ofNat r.val 4).trans (Nat.mod_eq_of_lt r.isLt))

@[simp] theorem fieldOfReg_regOfField (f : BitVec 4) : fieldOfReg (regOfField f) = f :=
  (BitVec.ofNat_toNat 4 f).trans f.setWidth_eq

theorem opField_toNat (w : Word) : (opField w).toNat = w.toNat / 4096 := by
  rw [opField, BitVec.extractLsb'_toNat, Nat.shiftRight_eq_div_pow]
  exact Nat.mod_eq_of_lt (Nat.div_lt_of_lt_mul w.isLt)

theorem nField_toNat (w : Word) : (nField w).toNat = w.toNat % 16 :=
  BitVec.extractLsb'_toNat 0 4 w

theorem nnField_toNat (w : Word) : (nnField w).toNat = w.toNat % 256 :=
  BitVec.extractLsb'_toNat 0 8 w

/-- Row 24's condition (R84) is on the field N. -/
theorem and_000F_eq_zero_iff (w : Word) : w &&& 0x000F#16 = 0#16 ↔ nField w = 0#4 := by
  have hmask : (w &&& 0x000F#16).toNat = (nField w).toNat :=
    (Nat.and_two_pow_sub_one_eq_mod w.toNat 4).trans (nField_toNat w).symm
  rw [← BitVec.toNat_inj, ← BitVec.toNat_inj, hmask]
  rfl

/-! ### Of a word built from a layout -/

@[simp] theorem opField_wordA (op : BitVec 4) (nnn : Addr12) : opField (wordA op nnn) = op :=
  BitVec.extractLsb'_append_eq_left

@[simp] theorem nnnField_wordA (op : BitVec 4) (nnn : Addr12) : nnnField (wordA op nnn) = nnn :=
  BitVec.extractLsb'_append_eq_right

@[simp] theorem opField_wordXNN (op : BitVec 4) (x : Reg) (nn : Byte) : opField (wordXNN op x nn) = op :=
  BitVec.extractLsb'_append_eq_left

@[simp] theorem xField_wordXNN (op : BitVec 4) (x : Reg) (nn : Byte) : xField (wordXNN op x nn) = fieldOfReg x :=
  (BitVec.extractLsb'_append_eq_of_add_le (by decide)).trans BitVec.extractLsb'_append_eq_left

@[simp] theorem nnField_wordXNN (op : BitVec 4) (x : Reg) (nn : Byte) : nnField (wordXNN op x nn) = nn :=
  (BitVec.extractLsb'_append_eq_of_add_le (by decide)).trans BitVec.extractLsb'_append_eq_right

@[simp] theorem opField_wordXYN (op : BitVec 4) (x y : Reg) (n : BitVec 4) : opField (wordXYN op x y n) = op :=
  BitVec.extractLsb'_append_eq_left

@[simp] theorem xField_wordXYN (op : BitVec 4) (x y : Reg) (n : BitVec 4) :
    xField (wordXYN op x y n) = fieldOfReg x :=
  xField_wordXNN op x (fieldOfReg y ++ n)

@[simp] theorem yField_wordXYN (op : BitVec 4) (x y : Reg) (n : BitVec 4) :
    yField (wordXYN op x y n) = fieldOfReg y :=
  (BitVec.extractLsb'_append_eq_of_add_le (by decide)).trans <|
    (BitVec.extractLsb'_append_eq_of_add_le (by decide)).trans BitVec.extractLsb'_append_eq_left

@[simp] theorem nField_wordXYN (op : BitVec 4) (x y : Reg) (n : BitVec 4) : nField (wordXYN op x y n) = n :=
  (BitVec.extractLsb'_append_eq_of_add_le (by decide)).trans <|
    (BitVec.extractLsb'_append_eq_of_add_le (by decide)).trans BitVec.extractLsb'_append_eq_right

/-- The word that spells CLS is that of one operand of SYS, which is not well-formed. -/
@[simp] theorem wordA_eq_cls_iff (nnn : Addr12) : wordA 0x0#4 nnn = 0x00E0#16 ↔ nnn = 0x0E0#12 :=
  ⟨fun h => (nnnField_wordA 0x0#4 nnn).symm.trans (congrArg nnnField h), fun h => congrArg (wordA 0x0#4) h⟩

/-- As `wordA_eq_cls_iff`, for RET. -/
@[simp] theorem wordA_eq_ret_iff (nnn : Addr12) : wordA 0x0#4 nnn = 0x00EE#16 ↔ nnn = 0x0EE#12 :=
  ⟨fun h => (nnnField_wordA 0x0#4 nnn).symm.trans (congrArg nnnField h), fun h => congrArg (wordA 0x0#4) h⟩

/-! ### A word is built from its fields, by every layout -/

theorem wordA_of_fields {w : Word} {op : BitVec 4} (hop : opField w = op) : wordA op (nnnField w) = w := by
  subst hop
  exact BitVec.extractLsb'_append_extractLsb' (w := 4) (len := 12)

theorem wordXNN_of_fields {w : Word} {op : BitVec 4} {nn : Byte} (hop : opField w = op) (hnn : nnField w = nn) :
    wordXNN op (regOfField (xField w)) nn = w := by
  have hlow : xField w ++ nnField w = nnnField w := BitVec.extractLsb'_append_extractLsb'_eq_extractLsb' rfl
  rw [wordXNN, fieldOfReg_regOfField, ← hnn, hlow]
  exact wordA_of_fields hop

theorem wordXYN_of_fields {w : Word} {op n : BitVec 4} (hop : opField w = op) (hn : nField w = n) :
    wordXYN op (regOfField (xField w)) (regOfField (yField w)) n = w := by
  have hlow : yField w ++ nField w = nnField w := BitVec.extractLsb'_append_extractLsb'_eq_extractLsb' rfl
  rw [wordXYN, fieldOfReg_regOfField (yField w), ← hn, hlow]
  exact wordXNN_of_fields hop rfl

/-! ## Decoding an encoded instruction -/

/-- Settles O1: layout by layout, each field of the word is the operand it was built from. -/
theorem decodeOfEncodeIsTheInstruction : Obligations.DecodeOfEncodeIsTheInstruction := by
  intro i hwf
  cases i with
  | sys nnn =>
    obtain ⟨hcls, hret⟩ : nnn ≠ 0x0E0#12 ∧ nnn ≠ 0x0EE#12 := by simpa [Instr.wf] using hwf
    simp [encode, decode, hcls, hret]
  | cls | ret => rfl
  | jp nnn | call nnn | ldI nnn | jpV0 nnn => simp [encode, decode]
  | seByte x nn | sneByte x nn | ldByte x nn | addByte x nn | rnd x nn => simp [encode, decode]
  | seReg x y | sneReg x y => simp [encode, decode]
  | drw x y n =>
    have hn : n ≠ 0#4 := by simpa [Instr.wf] using hwf
    simp [encode, decode, hn]
  | ldReg x y | or x y | and x y | xor x y | addReg x y | sub x y | shr x y | subn x y | shl x y =>
    simp [encode, decode, decode8]
  | skp x | sknp x => simp [encode, decode, decodeE]
  | ldVxDt x | ldVxK x | ldDtVx x | ldStVx x | addIVx x | ldFVx x | ldBVx x | store x | load x =>
    simp [encode, decode, decodeF]

/-! ## Everything that the decoder can answer -/

/-- The six classes of R86, by the fields of the word. -/
def Reserved (w : Word) : Prop :=
  (opField w = 0x5#4 ∧ nField w ≠ 0#4) ∨
  (opField w = 0x8#4 ∧ nField w ∉ [0x0#4, 0x1#4, 0x2#4, 0x3#4, 0x4#4, 0x5#4, 0x6#4, 0x7#4, 0xE#4]) ∨
  (opField w = 0x9#4 ∧ nField w ≠ 0#4) ∨
  (opField w = 0xD#4 ∧ nField w = 0#4) ∨
  (opField w = 0xE#4 ∧ nnField w ∉ [0x9E#8, 0xA1#8]) ∨
  (opField w = 0xF#4 ∧
    nnField w ∉ [0x07#8, 0x0A#8, 0x15#8, 0x18#8, 0x1E#8, 0x29#8, 0x33#8, 0x55#8, 0x65#8])

/-- The answer to a word: an instruction that spells it, or, exactly for a reserved word, its rejection. -/
inductive DecodeAnswer (w : Word) : Except DecodeReject Instr → Prop
  | instr (i : Instr) (hwf : i.wf = true) (hword : encode i = w) (hres : ¬ Reserved w) : DecodeAnswer w (.ok i)
  | unknown (hres : Reserved w) : DecodeAnswer w (.error (.unknownOpcode w))

theorem decode8_answer {w : Word} (hop : opField w = 0x8#4) : DecodeAnswer w (decode8 w) := by
  have hres : Reserved w ↔
      nField w ∉ [0x0#4, 0x1#4, 0x2#4, 0x3#4, 0x4#4, 0x5#4, 0x6#4, 0x7#4, 0xE#4] := by simp [Reserved, hop]
  unfold decode8
  split
  case h_10 => exact .unknown (hres.mpr (by simp_all))
  all_goals
    next hn => exact .instr _ rfl (wordXYN_of_fields hop hn) (by simp [hres, hn])

theorem decodeE_answer {w : Word} (hop : opField w = 0xE#4) : DecodeAnswer w (decodeE w) := by
  have hres : Reserved w ↔ nnField w ∉ [0x9E#8, 0xA1#8] := by simp [Reserved, hop]
  unfold decodeE
  split
  case h_3 => exact .unknown (hres.mpr (by simp_all))
  all_goals
    next hnn => exact .instr _ rfl (wordXNN_of_fields hop hnn) (by simp [hres, hnn])

theorem decodeF_answer {w : Word} (hop : opField w = 0xF#4) : DecodeAnswer w (decodeF w) := by
  have hres : Reserved w ↔
      nnField w ∉ [0x07#8, 0x0A#8, 0x15#8, 0x18#8, 0x1E#8, 0x29#8, 0x33#8, 0x55#8, 0x65#8] := by simp [Reserved, hop]
  unfold decodeF
  split
  case h_10 => exact .unknown (hres.mpr (by simp_all))
  all_goals
    next hnn => exact .instr _ rfl (wordXNN_of_fields hop hnn) (by simp [hres, hnn])

/-- Family 0 of R85's case table. -/
theorem decode0_answer {w : Word} (hop : opField w = 0x0#4) : DecodeAnswer w
    (if w = 0x00E0#16 then .ok .cls else if w = 0x00EE#16 then .ok .ret else .ok (.sys (nnnField w))) := by
  have hres : ¬ Reserved w := by simp [Reserved, hop]
  have hword : wordA 0x0#4 (nnnField w) = w := wordA_of_fields hop
  split_ifs with hcls hret
  · exact .instr _ rfl hcls.symm hres
  · exact .instr _ rfl hret.symm hres
  · rw [← hword, wordA_eq_cls_iff] at hcls
    rw [← hword, wordA_eq_ret_iff] at hret
    exact .instr _ (by simp [Instr.wf, hcls, hret]) hword hres

/-- Families 5 and 9 of R85's case table: the sub-opcode N is 0. -/
theorem decodeXY0_answer {w : Word} {op : BitVec 4} {i : Instr} (hop : opField w = op)
    (hfamily : op = 0x5#4 ∨ op = 0x9#4) (hwf : i.wf = true)
    (hi : encode i = wordXYN op (regOfField (xField w)) (regOfField (yField w)) 0x0#4) :
    DecodeAnswer w (if nField w = 0#4 then .ok i else .error (.unknownOpcode w)) := by
  have hres : Reserved w ↔ nField w ≠ 0#4 := by
    rcases hfamily with rfl | rfl <;> simp [Reserved, hop]
  split_ifs with hn
  · exact .instr i hwf (hi.trans (wordXYN_of_fields hop hn)) (by simp [hres, hn])
  · exact .unknown (hres.mpr hn)

/-- Family D of R85's case table: N is not 0. -/
theorem decodeD_answer {w : Word} (hop : opField w = 0xD#4) : DecodeAnswer w
    (if nField w ≠ 0#4 then .ok (.drw (regOfField (xField w)) (regOfField (yField w)) (nField w))
      else .error (.unknownOpcode w)) := by
  have hres : Reserved w ↔ nField w = 0#4 := by simp [Reserved, hop]
  split_ifs with hn
  · exact .instr _ (decide_eq_true hn) (wordXYN_of_fields hop rfl) (hres.not.mpr hn)
  · exact .unknown (hres.mpr (not_not.mp hn))

/-- R85's case table: case `h_k` is the family op = k - 1, the one-layout families by their layout; op takes no
seventeenth value. -/
theorem decode_answer (w : Word) : DecodeAnswer w (decode w) := by
  unfold decode
  split
  case h_1 hop => exact decode0_answer hop
  case h_2 hop | h_3 hop | h_11 hop | h_12 hop =>
    exact .instr _ rfl (wordA_of_fields hop) (by simp [Reserved, hop])
  case h_4 hop | h_5 hop | h_7 hop | h_8 hop | h_13 hop =>
    exact .instr _ rfl (wordXNN_of_fields hop rfl) (by simp [Reserved, hop])
  case h_6 hop => exact decodeXY0_answer hop (.inl rfl) rfl rfl
  case h_9 hop => exact decode8_answer hop
  case h_10 hop => exact decodeXY0_answer hop (.inr rfl) rfl rfl
  case h_14 hop => exact decodeD_answer hop
  case h_15 hop => exact decodeE_answer hop
  case h_16 hop => exact decodeF_answer hop
  case h_17 =>
    have hlt := (opField w).isLt
    simp only [imp_false] at *
    bv_omega

/-- The decoder answers an instruction only for a word that the instruction spells, and which is not reserved. -/
theorem decode_ok {w : Word} {i : Instr} (h : decode w = .ok i) : i.wf = true ∧ encode i = w ∧ ¬ Reserved w := by
  have hanswer := decode_answer w
  rw [h] at hanswer
  cases hanswer with
  | instr _ hwf hword hres => exact ⟨hwf, hword, hres⟩

/-- The decoder rejects reserved words only, and names the word. -/
theorem decode_error {w : Word} {r : DecodeReject} (h : decode w = .error r) : r = .unknownOpcode w ∧ Reserved w := by
  have hanswer := decode_answer w
  rw [h] at hanswer
  cases hanswer with
  | unknown hres => exact ⟨rfl, hres⟩

/-- Settles O2: the first two parts of `decode_ok`. -/
theorem encodeOfDecodeIsTheWord : Obligations.EncodeOfDecodeIsTheWord := by
  intro w i h
  obtain ⟨hwf, hword, -⟩ := decode_ok h
  exact ⟨hwf, hword⟩

/-! ## The reserved words -/

theorem decode_rejects_iff (w : Word) : (∃ r, decode w = .error r) ↔ Reserved w := by
  refine ⟨fun ⟨r, h⟩ => (decode_error h).2, fun hres => ?_⟩
  cases h : decode w with
  | error r => exact ⟨r, rfl⟩
  | ok i =>
    obtain ⟨-, -, hnot⟩ := decode_ok h
    exact absurd hres hnot

/-- The sub-opcodes of family 8 that R86 lists are those that R85's case table does not. -/
theorem mem_reserved8_iff (n : BitVec 4) :
    n.toNat ∈ [0x8, 0x9, 0xA, 0xB, 0xC, 0xD, 0xF] ↔
      n ∉ [0x0#4, 0x1#4, 0x2#4, 0x3#4, 0x4#4, 0x5#4, 0x6#4, 0x7#4, 0xE#4] := by
  revert n
  decide

/-- Settles O4: the rejected words are the reserved ones; their fields are the nibbles that the statement computes. -/
theorem reservedWordsAreRejected : Obligations.ReservedWordsAreRejected := by
  intro w
  refine ⟨fun r h => (decode_error h).1, (decode_rejects_iff w).trans ?_⟩
  rw [← opField_toNat, ← nField_toNat, ← nnField_toNat, mem_reserved8_iff]
  simp only [Reserved, List.mem_cons, List.not_mem_nil, or_false, ← BitVec.toNat_inj, BitVec.toNat_ofNat, ne_eq]

/-! ## The opcode map -/

/-- The encoded word of every instruction has the fixed bits of the instruction's row. -/
theorem encode_and_mask (i : Instr) : encode i &&& i.row.mask = i.row.matchBits := by
  cases i with
  | sys nnn => exact Laws.EncodingRow.sys nnn
  | cls => exact Laws.EncodingRow.cls
  | ret => exact Laws.EncodingRow.ret
  | jp nnn => exact Laws.EncodingRow.jp nnn
  | call nnn => exact Laws.EncodingRow.call nnn
  | seByte x nn => exact Laws.EncodingRow.seByte x nn
  | sneByte x nn => exact Laws.EncodingRow.sneByte x nn
  | seReg x y => exact Laws.EncodingRow.seReg x y
  | ldByte x nn => exact Laws.EncodingRow.ldByte x nn
  | addByte x nn => exact Laws.EncodingRow.addByte x nn
  | ldReg x y => exact Laws.EncodingRow.ldReg x y
  | or x y => exact Laws.EncodingRow.or x y
  | and x y => exact Laws.EncodingRow.and x y
  | xor x y => exact Laws.EncodingRow.xor x y
  | addReg x y => exact Laws.EncodingRow.addReg x y
  | sub x y => exact Laws.EncodingRow.sub x y
  | shr x y => exact Laws.EncodingRow.shr x y
  | subn x y => exact Laws.EncodingRow.subn x y
  | shl x y => exact Laws.EncodingRow.shl x y
  | sneReg x y => exact Laws.EncodingRow.sneReg x y
  | ldI nnn => exact Laws.EncodingRow.ldI nnn
  | jpV0 nnn => exact Laws.EncodingRow.jpV0 nnn
  | rnd x nn => exact Laws.EncodingRow.rnd x nn
  | drw x y n => exact Laws.EncodingRow.drw x y n
  | skp x => exact Laws.EncodingRow.skp x
  | sknp x => exact Laws.EncodingRow.sknp x
  | ldVxDt x => exact Laws.EncodingRow.ldVxDt x
  | ldVxK x => exact Laws.EncodingRow.ldVxK x
  | ldDtVx x => exact Laws.EncodingRow.ldDtVx x
  | ldStVx x => exact Laws.EncodingRow.ldStVx x
  | addIVx x => exact Laws.EncodingRow.addIVx x
  | ldFVx x => exact Laws.EncodingRow.ldFVx x
  | ldBVx x => exact Laws.EncodingRow.ldBVx x
  | store x => exact Laws.EncodingRow.store x
  | load x => exact Laws.EncodingRow.load x

/-- A well-formed instruction's word meets its row's extra condition: only rows 1 and 24 have one. -/
theorem encode_meets_condition {i : Instr} (hwf : i.wf = true) : i.row.condition.holds (encode i) = true := by
  cases i with
  | sys nnn => simpa [Instr.row, RowCondition.holds, encode, Instr.wf] using hwf
  | drw x y n => simpa [Instr.row, RowCondition.holds, encode, Instr.wf, and_000F_eq_zero_iff] using hwf
  | _ => rfl

theorem row_matches_encode {i : Instr} (hwf : i.wf = true) : i.row.matchesWord (encode i) = true := by
  rw [OpcodeRow.matchesWord, decide_eq_true (encode_and_mask i), encode_meets_condition hwf]
  rfl

/-- Two rows differ in a bit that both of them fix, or the extra condition of one shuts out the one word of the other
(rows 1 to 3, R87). -/
def OpcodeRow.Clash (r r' : OpcodeRow) : Prop :=
  r.matchBits &&& r'.mask ≠ r'.matchBits &&& r.mask ∨
  (r'.mask = 0xFFFF#16 ∧ r.condition.holds r'.matchBits = false)

/-- No word matches both rows. -/
def OpcodeRow.Exclusive (r r' : OpcodeRow) : Prop :=
  ∀ w : Word, ¬ (r.matchesWord w = true ∧ r'.matchesWord w = true)

theorem OpcodeRow.Exclusive.symm {r r' : OpcodeRow} (h : r.Exclusive r') : r'.Exclusive r :=
  fun w hboth => h w hboth.symm

theorem OpcodeRow.Clash.exclusive {r r' : OpcodeRow} (h : r.Clash r') : r.Exclusive r' := by
  intro w
  simp only [OpcodeRow.matchesWord, Bool.and_eq_true, decide_eq_true_eq]
  rintro ⟨⟨hr, hcondition⟩, hr', -⟩
  rcases h with hbits | ⟨hmask, hshut⟩
  · refine hbits ?_
    rw [← hr, ← hr', BitVec.and_assoc, BitVec.and_assoc, BitVec.and_comm r.mask]
  · obtain rfl : w = r'.matchBits := by
      rw [← hr', hmask]
      exact BitVec.and_allOnes.symm
    exact absurd (hshut.symm.trans hcondition) Bool.false_ne_true

theorem opcodeTable_clash : opcodeTable.Pairwise OpcodeRow.Clash := by
  unfold OpcodeRow.Clash
  decide

/-- A word matches one row of the table at most. -/
theorem eq_of_matchesWord {r r' : OpcodeRow} {w : Word} (hr : r ∈ opcodeTable) (hr' : r' ∈ opcodeTable)
    (h : r.matchesWord w = true) (h' : r'.matchesWord w = true) : r = r' := by
  have hsymm : Std.Symm OpcodeRow.Exclusive := ⟨fun _ _ => OpcodeRow.Exclusive.symm⟩
  by_contra hne
  exact (opcodeTable_clash.imp OpcodeRow.Clash.exclusive).forall hr hr' hne w ⟨h, h'⟩

/-- Every instruction belongs to a row of the table: `List.Mem` step by step down the table to the row. -/
theorem row_mem_opcodeTable (i : Instr) : i.row ∈ opcodeTable := by
  cases i <;> repeat constructor

/-- A decoded word matches the row of its instruction. -/
theorem row_matches_of_decode {w : Word} {i : Instr} (h : decode w = .ok i) : i.row.matchesWord w = true := by
  obtain ⟨hwf, rfl, -⟩ := decode_ok h
  exact row_matches_encode hwf

/-- Settles O3: a decoded word matches its own row, and no word matches two. -/
theorem decoderFollowsTheOpcodeMap : Obligations.DecoderFollowsTheOpcodeMap := by
  refine ⟨rfl, fun w i h => ?_, fun w hnone => ?_⟩
  · have hrow := row_mem_opcodeTable i
    have hmatch := row_matches_of_decode h
    refine ⟨hrow, fun r hr => ⟨fun hrw => eq_of_matchesWord hr hrow hrw hmatch, ?_⟩⟩
    rintro rfl
    exact hmatch
  · cases h : decode w with
    | error r => rw [(decode_error h).1]
    | ok i => exact absurd (row_matches_of_decode h) (by simp [hnone _ (row_mem_opcodeTable i)])

/-- Settles O5: the decoder computes on each of the ten words. -/
theorem specWordsDecode : Obligations.SpecWordsDecode := by
  unfold Obligations.SpecWordsDecode
  decide

end Sys2Proof

/-! PROOFS. What one Cycle does, each line of R100. -/

namespace Sys2Proof.Machine

theorem step_withEvent (s : State) (e : Event) : step (s.withEvent e) = s.applyEvent e := rfl

/-! ## The lines of R100 -/

theorem State.cycle_idle {s : State} (h : s.runState ≠ .running ∨ s.await ≠ none) : s.cycle = .next s := by
  rcases s.cycle_cases with ⟨-, hc⟩ | ⟨hrun, hawait, -⟩
  · exact hc
  · exact absurd h (by simp [hrun, hawait])

theorem State.cycle_active {s : State} (hrun : s.runState = .running) (hawait : s.await = none) :
    s.cycle = s.runInstruction := by
  rw [State.cycle, hrun, hawait]

theorem State.runInstruction_fetchFault {s : State} (hpc : 0x1000 ≤ s.pc.toNat) :
    s.runInstruction = .next (s.raise (.fetchOutOfBounds s.pc)) := by
  have hfetch : s.fetch = .error (.fetchOutOfBounds s.pc) := if_pos hpc
  simp only [State.runInstruction, hfetch]

/-- The word of the two bytes at PC (R66). -/
def State.wordAtPc (s : State) : Word := wordOfBytes (s.memRead s.pc.toNat) (s.memRead (s.pc.toNat + 1))

theorem State.fetch_eq_wordAtPc {s : State} (hpc : s.pc.toNat < 0x1000) : s.fetch = .ok s.wordAtPc :=
  State.fetch_of_pc_lt hpc

theorem State.runInstruction_unknown {s : State} (hpc : s.pc.toNat < 0x1000) {r : DecodeReject}
    (h : decode s.wordAtPc = .error r) : s.runInstruction = .next (s.raise (.unknownOpcode s.wordAtPc)) := by
  obtain rfl : r = .unknownOpcode s.wordAtPc := (decode_error h).1
  simp only [State.runInstruction, State.fetch_eq_wordAtPc hpc, h]

theorem State.runInstruction_exec {s : State} (hpc : s.pc.toNat < 0x1000) {i : Instr}
    (h : decode s.wordAtPc = .ok i) : s.runInstruction = exec i s := by
  simp only [State.runInstruction, State.fetch_eq_wordAtPc hpc, h]

/-- Settles O7: the lines of R100 in order. -/
theorem cycleEngine : Obligations.CycleEngine := by
  intro s
  refine ⟨State.cycle_idle, fun hrun hawait => ?_⟩
  rw [step_withEvent, State.applyEvent, State.cycle_active hrun hawait]
  refine ⟨State.runInstruction_fetchFault, fun hpc w hw => ?_⟩
  obtain rfl : w = s.wordAtPc := hw
  exact ⟨fun _ => State.runInstruction_unknown hpc, fun _ => State.runInstruction_exec hpc⟩

/-! ## The step that takes a Cycle -/

theorem State.cycle_exec {s : State} (hrun : s.runState = .running) (hawait : s.await = none)
    (hpc : s.pc.toNat < 0x1000) {i : Instr} (h : decode s.wordAtPc = .ok i) : s.cycle = exec i s :=
  (State.cycle_active hrun hawait).trans (State.runInstruction_exec hpc h)

/-! Taking an event changes nothing that a cycle looks at. -/

theorem State.takeEvent_runState (s : State) : s.takeEvent.runState = s.runState :=
  (congrArg State.runState s.takeEvent_frame).trans rfl

theorem State.takeEvent_await (s : State) : s.takeEvent.await = s.await :=
  (congrArg State.await s.takeEvent_frame).trans rfl

theorem State.takeEvent_pc (s : State) : s.takeEvent.pc = s.pc :=
  (congrArg State.pc s.takeEvent_frame).trans rfl

theorem State.takeEvent_wordAtPc (s : State) : s.takeEvent.wordAtPc = s.wordAtPc :=
  (congrArg State.wordAtPc s.takeEvent_frame).trans rfl

/-- Settles O6: `cycle_exec` at the state itself for a Cycle delivered now, and at the state after taking it for a Cycle
that was due. -/
theorem stepRunsTheDecodedInstruction : Obligations.StepRunsTheDecodedInstruction := by
  intro s i hrun hawait hpc hdecode
  refine ⟨State.cycle_exec hrun hawait hpc hdecode, fun hdue => ?_⟩
  rw [step, State.nextEvent, hdue]
  rw [← s.takeEvent_runState] at hrun
  rw [← s.takeEvent_await] at hawait
  rw [← s.takeEvent_pc] at hpc
  exact State.cycle_exec hrun hawait hpc ((congrArg decode s.takeEvent_wordAtPc).trans hdecode)

end Sys2Proof.Machine

/-! PROOFS. Control flow (40_control_flow.md): where each jump and each skip leaves PC, what CALL and RET do to the
stack, and that SYS always halts. -/

namespace Sys2Proof.Machine

/-! ## CALL and RET -/

/-- The state that a CALL with room on the stack answers (R114). -/
def State.called (s : State) (nnn : Addr12) : State :=
  { s with stack := s.stack.setIfInBounds s.sp (s.pc + 2), sp := s.sp + 1, pc := absoluteAddress nnn }

/-- The state that a RET with an entry to pop answers (R115). -/
def State.returned (s : State) : State :=
  { s with sp := s.sp - 1, pc := (s.stack[s.sp - 1]?).getD 0 }

theorem exec_call_full (nnn : Addr12) {s : State} (h : s.sp = s.config.stackDepth) :
    exec (.call nnn) s = .next (HaltedWith s (.stackOverflow s.pc)) := by
  rcases execCall_cases nnn s with ⟨-, hfull⟩ | ⟨hroom, -⟩
  · exact hfull
  · exact absurd h hroom

theorem exec_call_room (nnn : Addr12) {s : State} (h : s.sp < s.config.stackDepth) :
    exec (.call nnn) s = .next (s.called nnn) := by
  rcases execCall_cases nnn s with ⟨hfull, -⟩ | ⟨-, hroom⟩
  · exact absurd hfull (Nat.ne_of_lt h)
  · exact hroom

theorem exec_ret_empty {s : State} (h : s.sp = 0) : exec .ret s = .next (HaltedWith s (.stackUnderflow s.pc)) := by
  rcases execRet_cases s with ⟨-, hempty⟩ | ⟨hentry, -⟩
  · exact hempty
  · exact absurd h hentry

theorem exec_ret_entry {s : State} (h : 0 < s.sp) : exec .ret s = .next s.returned := by
  rcases execRet_cases s with ⟨hempty, -⟩ | ⟨-, hentry⟩
  · exact absurd hempty (Nat.ne_of_gt h)
  · exact hentry

/-- A valid configuration uses no more entries than the stack has (R7, R27). -/
theorem Config.stackDepth_le {c : Config} (h : c.valid = true) : c.stackDepth ≤ 16 := by
  rw [Config.valid, Bool.and_eq_true, decide_eq_true_eq, decide_eq_true_eq] at h
  exact h.2

theorem State.called_stack_top (nnn : Addr12) {s : State} (hvalid : s.config.valid = true)
    (hsp : s.sp < s.config.stackDepth) : (s.called nnn).stack[s.sp]? = some (s.pc + 2) :=
  Vector.getElem?_setIfInBounds_self_of_lt (Nat.lt_of_lt_of_le hsp (Config.stackDepth_le hvalid))

theorem State.called_stack_other (nnn : Addr12) (s : State) {j : Nat} (hj : j ≠ s.sp) :
    (s.called nnn).stack[j]? = s.stack[j]? :=
  Vector.getElem?_setIfInBounds_ne hj.symm

theorem State.stack_returned_pc {s : State} (hvalid : s.config.valid = true) (hsp : s.sp ≤ s.config.stackDepth)
    (hentry : 0 < s.sp) : s.stack[s.sp - 1]? = some s.returned.pc := by
  have hlt : s.sp - 1 < 16 := by
    have hdepth := Config.stackDepth_le hvalid
    omega
  simp only [State.returned, Vector.getElem?_eq_getElem hlt, Option.getD_some]

/-- Settles O21: the CALL's stack top is PC + 2, and the RET pops it. -/
theorem callThenRetReturns : Obligations.CallThenRetReturns := by
  intro nnn s t hvalid hsp hcall
  obtain rfl : s.called nnn = t := Host.Outcome.next.inj ((exec_call_room nnn hsp).symm.trans hcall)
  refine ⟨(s.called nnn).returned, exec_ret_entry (Nat.succ_pos s.sp), ?_, rfl⟩
  calc (s.called nnn).returned.pc = ((s.called nnn).stack[s.sp]?).getD 0 := rfl
    _ = s.pc + 2 := by rw [State.called_stack_top nnn hvalid hsp, Option.getD_some]

/-- Settles O19: the two ends of a CALL, and the stack of `State.called` entry by entry. -/
theorem callPushesOrOverflows : Obligations.CallPushesOrOverflows := by
  intro nnn s hvalid
  refine ⟨exec_call_full nnn, fun hsp => ⟨s.called nnn, exec_call_room nnn hsp, ?_⟩⟩
  exact ⟨State.called_stack_top nnn hvalid hsp, fun _ => s.called_stack_other nnn, rfl, absoluteAddress_toNat nnn,
    rfl, fun _ => rfl⟩

/-- Settles O20: the two ends of a RET; an entry below `STACK_DEPTH` is one the stack has. -/
theorem retPopsOrUnderflows : Obligations.RetPopsOrUnderflows := by
  intro s hvalid hsp
  refine ⟨exec_ret_empty, fun hentry => ⟨s.returned, exec_ret_entry hentry, ?_⟩⟩
  exact ⟨State.stack_returned_pc hvalid hsp hentry, rfl, rfl, rfl, fun _ => rfl⟩

/-! ## SYS -/

/-- The word of SYS is its operand under a zero opcode nibble (R84). -/
theorem encode_sys (nnn : Addr12) : encode (.sys nnn) = nnn.zeroExtend 16 :=
  (BitVec.setWidth_eq_append (by decide)).symm

/-- Settles O17: the rule raises whatever the state is, with the word that SYS encodes to. -/
theorem sysHaltsWithItsWord : Obligations.SysHaltsWithItsWord := by
  intro nnn s
  rw [← encode_sys nnn]
  rfl

/-! ## The jumps -/

theorem onlyPcChanges_withPc (s : State) (target : Word) : OnlyPcChanges s { s with pc := target } :=
  ⟨rfl, fun _ => rfl⟩

/-- Settles O18: a 12-bit target is below 0x1000. -/
theorem jumpSetsPc : Obligations.JumpSetsPc := by
  intro nnn s
  have hpc := absoluteAddress_toNat nnn
  exact ⟨_, rfl, hpc, hpc.trans_lt nnn.isLt, onlyPcChanges_withPc s _⟩

/-- The sum of BNNN is taken over 16 bits, and not masked to 12 (R116). -/
theorem indexedTarget_toNat (b : Byte) (nnn : Addr12) :
    (b.zeroExtend 16 + absoluteAddress nnn).toNat = (b.toNat + nnn.toNat) % 0x10000 := by
  have hb : (b.zeroExtend 16).toNat = b.toNat := BitVec.toNat_setWidth_of_le (by decide)
  rw [BitVec.toNat_add, hb, absoluteAddress_toNat]

theorem State.jumpRegister_off {s : State} (nnn : Addr12) (h : s.config.quirkJumpVx = false) :
    s.jumpRegister nnn = 0 := by
  simp only [State.jumpRegister, h, Bool.false_eq_true, if_false]

theorem State.jumpRegister_on {s : State} {nnn : Addr12} (h : s.config.quirkJumpVx = true) {x : Reg}
    (hx : x.val = nnn.toNat / 256) : s.jumpRegister nnn = x := by
  have hfield : (nnn.extractLsb' 8 4).toNat = nnn.toNat / 256 := by
    rw [BitVec.extractLsb'_toNat, Nat.shiftRight_eq_div_pow]
    exact Nat.mod_eq_of_lt (Nat.div_lt_of_lt_mul nnn.isLt)
  simp only [State.jumpRegister, h, if_true]
  exact Fin.ext (hfield.trans hx.symm)

theorem State.jumpRegister_target {s : State} {nnn : Addr12} {x : Reg} (h : s.jumpRegister nnn = x) :
    ((s.v[s.jumpRegister nnn]).zeroExtend 16 + absoluteAddress nnn).toNat = (s.v[x].toNat + nnn.toNat) % 0x10000 := by
  subst h
  exact indexedTarget_toNat _ nnn

/-- Settles O22: by the register that the quirk chooses. -/
theorem indexedJump : Obligations.IndexedJump := by
  intro nnn s
  refine ⟨_, rfl, onlyPcChanges_withPc s _, fun hquirk => ?_, fun hquirk x hx => ?_⟩
  · exact State.jumpRegister_target (State.jumpRegister_off nnn hquirk)
  · exact State.jumpRegister_target (State.jumpRegister_on hquirk hx)

/-! ## The skips -/

theorem State.advance_skipIf_pc (s : State) (c : Bool) :
    (s.advance.skipIf c).pc = if c then s.pc + 4 else s.pc + 2 := by
  have htwice : s.pc + 2 + 2 = s.pc + 4 := BitVec.add_assoc s.pc 2 2
  rw [State.skipIf_pc, State.advance_pc, htwice]

theorem State.advance_skipIf_onlyPc (s : State) (c : Bool) : OnlyPcChanges s (s.advance.skipIf c) := by
  rw [State.skipIf_frame]
  exact onlyPcChanges_withPc s _

/-- An instruction that skips on `p` moves PC by 4 where `p` holds and by 2 where it does not (R111). -/
theorem exec_skips_if {i : Instr} {s : State} {p : Prop} [Decidable p]
    (h : exec i s = .next (s.advance.skipIf (decide p))) :
    ∃ t, exec i s = .next t ∧ t.pc = (if p then s.pc + 4 else s.pc + 2) ∧ OnlyPcChanges s t := by
  refine ⟨_, h, ?_, s.advance_skipIf_onlyPc _⟩
  simp only [State.advance_skipIf_pc, decide_eq_true_eq]

theorem exec_skips_unless {i : Instr} {s : State} {p : Prop} [Decidable p]
    (h : exec i s = .next (s.advance.skipIf (decide ¬p))) :
    ∃ t, exec i s = .next t ∧ t.pc = (if p then s.pc + 2 else s.pc + 4) ∧ OnlyPcChanges s t := by
  obtain ⟨t, ht, hpc, honly⟩ := exec_skips_if h
  exact ⟨t, ht, hpc.trans (ite_not p _ _), honly⟩

/-- Settles O23: one skip on the equality, one on its negation. -/
theorem skipsOnByte : Obligations.SkipsOnByte :=
  fun _ _ _ => ⟨exec_skips_if rfl, exec_skips_unless rfl⟩

/-- Settles O24: one skip on the equality, one on its negation. -/
theorem skipsOnRegisters : Obligations.SkipsOnRegisters :=
  fun _ _ _ => ⟨exec_skips_if rfl, exec_skips_unless rfl⟩

end Sys2Proof.Machine

/-! PROOFS. Registers, logic, arithmetic and the random byte (41_alu.md): what each instruction leaves in VX and in VF,
and that it changes nothing else. -/

namespace Sys2Proof.Machine

/-! ## The forms that the instructions share -/

/-- For the flags that a configuration switches on or off (R142, R144 to R146): their frame lemmas have this form. -/
theorem State.advances_of_regs_frame {s t : State} (h : t = { s.advance with v := t.v }) :
    t.pc = s.pc + 2 ∧ OnlyRegsChange s t := by
  rw [h]
  exact ⟨rfl, rfl, fun _ => rfl⟩

/-- The quirk of R144 to R146 clears VF and no other register. -/
theorem State.logicFlag_get (s : State) (r : Reg) :
    s.logicFlag.v[r] = if s.config.quirkLogicVfReset = true ∧ r = vf then 0 else s.v[r] := by
  cases hquirk : s.config.quirkLogicVfReset with
  | false => simp [State.logicFlag_off hquirk]
  | true => simp only [State.logicFlag, hquirk, if_true, State.setV_get, true_and]

/-- The carry of R142 goes to VF, under `ADDI_SETS_CARRY` only. -/
theorem State.addImmediateFlag_get (s : State) (c : Bool) (r : Reg) :
    (s.addImmediateFlag c).v[r] = if s.config.addiSetsCarry = true ∧ r = vf then flagByte c else s.v[r] := by
  cases hquirk : s.config.addiSetsCarry with
  | false => simp [State.addImmediateFlag_off c hquirk]
  | true => simp only [State.addImmediateFlag, hquirk, if_true, State.setFlag, State.setV_get, true_and]

section Forms

variable {i : Instr} {s : State} {x : Reg} {b : Byte}

theorem exec_sets_register (h : exec i s = .next (s.advance.setV x b)) :
    ∃ t, exec i s = .next t ∧ t.pc = s.pc + 2 ∧ OnlyRegsChange s t ∧
      ∀ r : Reg, t.v[r] = if r = x then b else s.v[r] :=
  ⟨_, h, rfl, ⟨rfl, fun _ => rfl⟩, fun r => s.advance.setV_get x r b⟩

theorem exec_sets_register_and_resets_flag (h : exec i s = .next (s.advance.setV x b).logicFlag) :
    ∃ t, exec i s = .next t ∧ t.pc = s.pc + 2 ∧ OnlyRegsChange s t ∧
      ∀ r : Reg, t.v[r] = if s.config.quirkLogicVfReset = true ∧ r = vf then 0 else if r = x then b else s.v[r] := by
  obtain ⟨hpc, hregs⟩ := State.advances_of_regs_frame (s := s) (s.advance.setV x b).logicFlag_frame
  refine ⟨_, h, hpc, hregs, fun r => ?_⟩
  rw [State.logicFlag_get, State.setV_get]
  rfl

/-- R23: the flag is written last, so it replaces the result where VX is VF. -/
theorem exec_sets_result_and_flag {c : Bool} {result flag : Nat}
    (h : exec i s = .next (s.advance.setResultAndFlag x b c)) (hresult : b.toNat = result)
    (hflag : (flagByte c).toNat = flag) :
    ∃ t, exec i s = .next t ∧ t.pc = s.pc + 2 ∧ OnlyRegsChange s t ∧
      ∀ r : Reg, t.v[r].toNat = if r = vf then flag else if r = x then result else s.v[r].toNat := by
  refine ⟨_, h, rfl, ⟨rfl, fun _ => rfl⟩, fun r => ?_⟩
  rw [State.setResultAndFlag_get, apply_ite BitVec.toNat, apply_ite BitVec.toNat, hflag, hresult]
  rfl

end Forms

/-! ## The values written, as numbers -/

theorem flagByte_decide_toNat (p : Prop) [Decidable p] : (flagByte (decide p)).toNat = if p then 1 else 0 := by
  by_cases hp : p <;> simp [flagByte, hp]

theorem carryFlag_toNat (a b : Byte) :
    (flagByte (carryOut a b)).toNat = if 255 < a.toNat + b.toNat then 1 else 0 :=
  flagByte_decide_toNat _

theorem notBorrowFlag_toNat (a b : Byte) : (flagByte (notBorrow a b)).toNat = if a.toNat ≥ b.toNat then 1 else 0 :=
  flagByte_decide_toNat _

theorem byte_sub_toNat (a b : Byte) : (a - b).toNat = (a.toNat + 256 - b.toNat) % 256 := by
  have hb := b.isLt
  rw [BitVec.toNat_sub]
  omega

theorem byte_shiftRight_one_toNat (b : Byte) : (b >>> 1).toNat = b.toNat / 2 := by
  rw [BitVec.toNat_ushiftRight, Nat.shiftRight_eq_div_pow, Nat.pow_one]

theorem byte_shiftLeft_one_toNat (b : Byte) : (b <<< 1).toNat = 2 * b.toNat % 256 := by
  rw [BitVec.toNat_shiftLeft, Nat.shiftLeft_eq, Nat.pow_one, Nat.mul_comm]

theorem bitFlag_toNat (b : Byte) (k : Nat) : (flagByte (b.getLsbD k)).toNat = b.toNat / 2 ^ k % 2 := by
  rw [← BitVec.testBit_toNat, Nat.testBit_eq_decide_div_mod_eq, flagByte_decide_toNat]
  split <;> omega

theorem shiftedOutRightFlag_toNat (b : Byte) : (flagByte (shiftedOutRight b)).toNat = b.toNat % 2 := by
  rw [shiftedOutRight, bitFlag_toNat, Nat.pow_zero, Nat.div_one]

/-- Bit 7 is the top bit of a byte, so nothing above it is cut off. -/
theorem shiftedOutLeftFlag_toNat (b : Byte) : (flagByte (shiftedOutLeft b)).toNat = b.toNat / 128 := by
  rw [shiftedOutLeft, bitFlag_toNat]
  have hb := b.isLt
  omega

theorem State.shiftOperand_toNat (s : State) (x y : Reg) :
    (s.shiftOperand x y).toNat = if s.config.quirkShiftSrc = .vx then s.v[x].toNat else s.v[y].toNat := by
  cases hquirk : s.config.quirkShiftSrc <;> simp [State.shiftOperand, hquirk]

/-! ## Assignment and logic -/

/-- Settles O25: both are a write of VX. -/
theorem registerAssignment : Obligations.RegisterAssignment :=
  fun _ _ _ _ => ⟨exec_sets_register rfl, exec_sets_register rfl⟩

/-- Settles O27: all three are a write of VX, then the quirk's write of VF. -/
theorem bitwiseOperations : Obligations.BitwiseOperations :=
  fun _ _ _ => ⟨exec_sets_register_and_resets_flag rfl, exec_sets_register_and_resets_flag rfl,
    exec_sets_register_and_resets_flag rfl⟩

/-! ## Arithmetic -/

/-- Settles O26: a write of VX, then the carry's write of VF where the configuration asks for it. -/
theorem addImmediate : Obligations.AddImmediate := by
  intro x nn s
  obtain ⟨hpc, hregs⟩ := State.advances_of_regs_frame (s := s)
    ((s.advance.setV x (s.v[x] + nn)).addImmediateFlag_frame (carryOut s.v[x] nn))
  refine ⟨_, rfl, hpc, hregs, fun r => ?_⟩
  rw [State.addImmediateFlag_get, State.setV_get, apply_ite BitVec.toNat, apply_ite BitVec.toNat, carryFlag_toNat,
    BitVec.toNat_add]
  rfl

/-- Settles O28: the result and the carry, each as a number. -/
theorem addWithCarry : Obligations.AddWithCarry :=
  fun _ _ _ => exec_sets_result_and_flag rfl (BitVec.toNat_add _ _) (carryFlag_toNat _ _)

/-- Settles O29: the result and the NOT-borrow, each as a number, with the operands in either order. -/
theorem subtractWithNotBorrow : Obligations.SubtractWithNotBorrow :=
  fun _ _ _ => ⟨exec_sets_result_and_flag rfl (byte_sub_toNat _ _) (notBorrowFlag_toNat _ _),
    exec_sets_result_and_flag rfl (byte_sub_toNat _ _) (notBorrowFlag_toNat _ _)⟩

/-- Settles O30: the result and the bit shifted out, each as a number, of the configured operand. -/
theorem shiftsByOne : Obligations.ShiftsByOne := by
  intro x y s b hb
  obtain rfl : (s.shiftOperand x y).toNat = b := (s.shiftOperand_toNat x y).trans hb.symm
  exact ⟨exec_sets_result_and_flag rfl (byte_shiftRight_one_toNat _) (shiftedOutRightFlag_toNat _),
    exec_sets_result_and_flag rfl (byte_shiftLeft_one_toNat _) (shiftedOutLeftFlag_toNat _)⟩

/-! ## The random byte -/

theorem State.randomByte_of_feed {s : State} {b : Byte} {rest : List Byte} (h : s.randFeed = b :: rest) :
    s.randomByte = b := by
  simp only [State.randomByte, h]

theorem State.randomByte_free {s : State} (h : s.randFeed = []) : s.randomByte = Config.randomByte s.draws := by
  simp only [State.randomByte, h]

theorem State.afterDraw_of_feed {s : State} {b : Byte} {rest : List Byte} (h : s.randFeed = b :: rest) :
    s.afterDraw = { s with randFeed := rest } := by
  simp only [State.afterDraw, h]

theorem State.afterDraw_free {s : State} (h : s.randFeed = []) : s.afterDraw = { s with draws := s.draws + 1 } := by
  simp only [State.afterDraw, h]

/-- CXNN, for a byte `b` and the state `u` that the draw leaves. -/
theorem exec_rnd {s u : State} {b : Byte} (x : Reg) (nn : Byte) (hbyte : s.randomByte = b)
    (hdraw : s.advance.afterDraw = u) : exec (.rnd x nn) s = .next (u.setV x (b &&& nn)) := by
  subst hbyte hdraw
  rfl

/-- Settles O31: by where the byte comes from. -/
theorem randomByteIsMasked : Obligations.RandomByteIsMasked := by
  intro x nn s
  refine ⟨fun b rest hfeed => ?_, fun hfeed => ?_⟩
  · have hdraw := State.afterDraw_of_feed (s := s.advance) hfeed
    exact ⟨_, exec_rnd x nn (State.randomByte_of_feed hfeed) hdraw, rfl, fun r => State.setV_get _ x r _, rfl,
      fun _ => rfl⟩
  · have hdraw := State.afterDraw_free (s := s.advance) hfeed
    exact ⟨_, exec_rnd x nn (State.randomByte_free hfeed) hdraw, rfl, fun r => State.setV_get _ x r _, rfl,
      fun _ => rfl⟩

end Sys2Proof.Machine

/-! PROOFS. The display (42_display.md). A draw is a chain of plots on pairwise different pixels, since a sprite has 8
columns, fewer than 64, and at most 15 rows, fewer than 32 (R183). So each pixel under a 1 bit is flipped once, and the
collision flag can be told from the framebuffer before the draw. -/

namespace Sys2Proof.Machine

/-! ## Clear screen -/

/-- Settles O32: the framebuffer written is the clear one. -/
theorem clearScreen : Obligations.ClearScreen :=
  fun _ => ⟨_, rfl, rfl, Framebuffer.pixel_clear, rfl, fun _ => rfl⟩

/-! ## Drawing on a set of pixels -/

/-- From `d` to `e` each pixel of `P` was plotted once, and no other pixel was (R182, R183). -/
structure Drawing.Toggles (P : Fin 64 → Fin 32 → Prop) (d e : Drawing) : Prop where
  on : ∀ px py, P px py → e.fb.pixel px py = !d.fb.pixel px py
  off : ∀ px py, ¬ P px py → e.fb.pixel px py = d.fb.pixel px py
  collision : e.collision = true ↔ d.collision = true ∨ ∃ px py, P px py ∧ d.fb.pixel px py = true

section Toggles

variable {P Q : Fin 64 → Fin 32 → Prop} {d e f : Drawing}

theorem Drawing.Toggles.congr (h : Drawing.Toggles P d e) (hPQ : ∀ px py, P px py ↔ Q px py) : Drawing.Toggles Q d e :=
  (funext₂ fun px py => propext (hPQ px py) : P = Q) ▸ h

theorem Drawing.toggles_nothing (d : Drawing) (hP : ∀ px py, ¬ P px py) : Drawing.Toggles P d d :=
  { on := fun px py h => absurd h (hP px py)
    off := fun _ _ _ => rfl
    collision := by simp [hP] }

theorem Framebuffer.pixel_mod (fb : Framebuffer) (x y : Nat) : fb.pixel (x % 64) (y % 32) = fb.pixel x y := by
  simp only [Framebuffer.pixel, Nat.mod_mod]

theorem Drawing.toggles_plot (d : Drawing) (x y : Nat) :
    Drawing.Toggles (fun px py => px.val = x % 64 ∧ py.val = y % 32) d (d.plot x y) := by
  have hpixel (px : Fin 64) (py : Fin 32) : (d.plot x y).fb.pixel px py =
      (d.fb.pixel px py ^^ decide (px.val = x % 64 ∧ py.val = y % 32)) := by
    simpa only [Drawing.plot, Nat.mod_eq_of_lt px.isLt, Nat.mod_eq_of_lt py.isLt, Bool.decide_and] using
      d.fb.pixel_flip x y px py
  refine { on := fun px py h => ?_, off := fun px py h => ?_, collision := ?_ }
  · rw [hpixel, decide_eq_true h, Bool.xor_true]
  · rw [hpixel, decide_eq_false h, Bool.xor_false]
  · have hlit : (∃ (px : Fin 64) (py : Fin 32), (px.val = x % 64 ∧ py.val = y % 32) ∧ d.fb.pixel px py = true) ↔
        d.fb.pixel x y = true := by
      constructor
      · rintro ⟨px, py, ⟨hx, hy⟩, hlit⟩
        rwa [hx, hy, Framebuffer.pixel_mod] at hlit
      · intro hlit
        exact ⟨⟨x % 64, Nat.mod_lt _ (by decide)⟩, ⟨y % 32, Nat.mod_lt _ (by decide)⟩, ⟨rfl, rfl⟩,
          (d.fb.pixel_mod x y).trans hlit⟩
    rw [hlit]
    exact iff_of_eq (Bool.or_eq_true _ _)

/-- Two drawings one after the other, with no pixel in common: what the second finds on its pixels is what was there
before the first. -/
theorem Drawing.Toggles.trans (h : Drawing.Toggles P d e) (g : Drawing.Toggles Q e f)
    (hdisjoint : ∀ px py, P px py → ¬ Q px py) : Drawing.Toggles (fun px py => P px py ∨ Q px py) d f := by
  have hsecond {px : Fin 64} {py : Fin 32} (hQ : Q px py) : e.fb.pixel px py = d.fb.pixel px py :=
    h.off px py fun hP => hdisjoint px py hP hQ
  refine { on := fun px py hPQ => ?_, off := fun px py hPQ => ?_, collision := ?_ }
  · rcases hPQ with hP | hQ
    · rw [g.off px py (hdisjoint px py hP), h.on px py hP]
    · rw [g.on px py hQ, hsecond hQ]
  · obtain ⟨hP, hQ⟩ := not_or.mp hPQ
    rw [g.off px py hQ, h.off px py hP]
  · have hQ : (∃ px py, Q px py ∧ e.fb.pixel px py = true) ↔ ∃ px py, Q px py ∧ d.fb.pixel px py = true :=
      exists₂_congr fun px py => and_congr_right fun hQ => by rw [hsecond hQ]
    simp only [g.collision, h.collision, hQ, or_and_right, exists_or, or_assoc]

end Toggles

/-! ## A row and a sprite as sets of pixels -/

/-- One of the first `k` columns of the sprite byte `b`, drawn at column `x`, row `y`, has a 1 bit on the pixel. -/
def RowOn (b : Byte) (x y k px py : Nat) : Prop :=
  ∃ col, col < k ∧ b.getLsbD (7 - col) = true ∧ px = (x + col) % 64 ∧ py = y % 32

theorem rowOn_succ (b : Byte) (x y k px py : Nat) : RowOn b x y (k + 1) px py ↔
    RowOn b x y k px py ∨ (b.getLsbD (7 - k) = true ∧ px = (x + k) % 64 ∧ py = y % 32) :=
  Nat.exists_lt_succ_right

/-- The loop of R182 over the first `k` columns; no two of them wrap to the same pixel. -/
theorem Drawing.toggles_columns (d : Drawing) (b : Byte) (x y : Nat) {k : Nat} (hk : k ≤ 64) :
    Drawing.Toggles (fun px py => RowOn b x y k px py) d
      ((List.range k).foldl (fun d col => if b.getLsbD (7 - col) then d.plot (x + col) y else d) d) := by
  induction k with
  | zero => exact d.toggles_nothing fun _ _ ⟨_, hcol, _⟩ => Nat.not_lt_zero _ hcol
  | succ k ih =>
    rw [List.range_succ, List.foldl_append]
    have hfirst := ih (Nat.le_of_succ_le hk)
    refine (hfirst.trans (Q := fun px py => b.getLsbD (7 - k) = true ∧ px.val = (x + k) % 64 ∧ py.val = y % 32)
      ?last ?disjoint).congr fun px py => (rowOn_succ b x y k px py).symm
    case last =>
      simp only [List.foldl_cons, List.foldl_nil]
      split
      · next hbit => exact (Drawing.toggles_plot _ (x + k) y).congr fun px py => (and_iff_right hbit).symm
      · next hbit => exact Drawing.toggles_nothing _ fun _ _ h => hbit h.1
    case disjoint =>
      rintro px py ⟨col, hcol, -, hpx, -⟩ ⟨-, hpx', -⟩
      omega

theorem Drawing.toggles_row (d : Drawing) (b : Byte) (x y : Nat) :
    Drawing.Toggles (fun px py => RowOn b x y 8 px py) d (d.row b x y) :=
  d.toggles_columns b x y (by decide)

/-- The sprite of the `n` bytes from `ea` on, drawn at column `x`, row `y`, has a 1 bit on the pixel. -/
def State.SpriteAt (s : State) (ea x y n px py : Nat) : Prop :=
  ∃ row, row < n ∧ RowOn (s.memRead (ea + row)) x (y + row) 8 px py

theorem State.spriteAt_succ (s : State) (ea x y n px py : Nat) : s.SpriteAt ea x y (n + 1) px py ↔
    RowOn (s.memRead ea) x y 8 px py ∨ s.SpriteAt (ea + 1) x (y + 1) n px py := by
  simp only [State.SpriteAt, Nat.exists_lt_succ_left, Nat.add_zero, Nat.add_assoc, Nat.add_comm 1]

theorem State.spriteOn_iff_spriteAt (s : State) (x y : Reg) (n : BitVec 4) (px py : Nat) :
    s.SpriteOn x y n px py ↔ s.SpriteAt s.i.toNat s.v[x].toNat s.v[y].toNat n.toNat px py := by
  simp only [State.SpriteOn, State.SpriteAt, RowOn, exists_and_left]

/-- The loop of R182 over the rows; no two of them wrap to the same row of the screen. -/
theorem Drawing.toggles_sprite (d : Drawing) (s : State) (ea x y : Nat) {n : Nat} (hn : n ≤ 32) :
    Drawing.Toggles (fun px py => s.SpriteAt ea x y n px py) d (d.sprite x y (s.readBytes ea n)) := by
  induction n generalizing d ea y with
  | zero => exact d.toggles_nothing fun _ _ ⟨_, hrow, _⟩ => Nat.not_lt_zero _ hrow
  | succ n ih =>
    have hrest := ih (d.row (s.memRead ea) x y) (ea + 1) (y + 1) (Nat.le_of_succ_le hn)
    refine ((d.toggles_row _ x y).trans hrest ?_).congr fun px py => (s.spriteAt_succ ea x y n px py).symm
    rintro px py ⟨_, -, -, -, hpy⟩ ⟨row, hrow, _, -, -, -, hpy'⟩
    omega

/-! ## What DXYN leaves on the screen and in VF -/

/-- The state that DXYN leaves (R182). -/
def State.afterDrw (s : State) (x y : Reg) (n : BitVec 4) : State :=
  State.setFlag { s.advance with fb := (s.drawn x y n).fb } (s.drawn x y n).collision

theorem exec_drw (x y : Reg) (n : BitVec 4) (s : State) : exec (.drw x y n) s = .next (s.afterDrw x y n) := rfl

section Draw

variable {s : State} {x y : Reg} {n : BitVec 4} {px py : Nat}

theorem State.toggles_drawn (s : State) (x y : Reg) (n : BitVec 4) :
    Drawing.Toggles (fun px py => s.SpriteOn x y n px py) { fb := s.fb, collision := false } (s.drawn x y n) :=
  have hn : n.toNat ≤ 32 := by omega
  (Drawing.toggles_sprite _ s _ _ _ hn).congr fun px py => (s.spriteOn_iff_spriteAt x y n px py).symm

theorem State.SpriteOn.inBounds (h : s.SpriteOn x y n px py) : px < 64 ∧ py < 32 := by
  obtain ⟨row, col, -, -, -, rfl, rfl⟩ := h
  exact ⟨Nat.mod_lt _ (by decide), Nat.mod_lt _ (by decide)⟩

theorem State.afterDrw_pixel_on (h : s.SpriteOn x y n px py) :
    (s.afterDrw x y n).fb.pixel px py = !s.fb.pixel px py :=
  have ⟨hpx, hpy⟩ := h.inBounds
  (s.toggles_drawn x y n).on ⟨px, hpx⟩ ⟨py, hpy⟩ h

theorem State.afterDrw_pixel_off (hpx : px < 64) (hpy : py < 32) (h : ¬ s.SpriteOn x y n px py) :
    (s.afterDrw x y n).fb.pixel px py = s.fb.pixel px py :=
  (s.toggles_drawn x y n).off ⟨px, hpx⟩ ⟨py, hpy⟩ h

/-- R183: the collision flag, from the framebuffer before the draw. -/
theorem State.drawn_collision_iff (s : State) (x y : Reg) (n : BitVec 4) :
    (s.drawn x y n).collision = true ↔ ∃ px py, s.SpriteOn x y n px py ∧ s.fb.pixel px py = true := by
  rw [(s.toggles_drawn x y n).collision]
  constructor
  · rintro (hfalse | ⟨px, py, hon, hlit⟩)
    · exact absurd hfalse Bool.false_ne_true
    · exact ⟨px, py, hon, hlit⟩
  · rintro ⟨px, py, hon, hlit⟩
    obtain ⟨hpx, hpy⟩ := hon.inBounds
    exact .inr ⟨⟨px, hpx⟩, ⟨py, hpy⟩, hon, hlit⟩

theorem State.afterDrw_get (s : State) (x y : Reg) (n : BitVec 4) (r : Reg) :
    (s.afterDrw x y n).v[r] = if r = vf then flagByte (s.drawn x y n).collision else s.v[r] :=
  State.setV_get _ vf r _

theorem State.afterDrw_vf_one (h : ∃ px py, s.SpriteOn x y n px py ∧ s.fb.pixel px py = true) :
    (s.afterDrw x y n).v[vf] = 1 := by
  rw [State.afterDrw_get, if_pos rfl, (s.drawn_collision_iff x y n).mpr h]
  rfl

theorem State.afterDrw_vf_zero (h : ∀ px py, s.SpriteOn x y n px py → s.fb.pixel px py = false) :
    (s.afterDrw x y n).v[vf] = 0 := by
  have hcollision : (s.drawn x y n).collision = false := by
    rw [← Bool.not_eq_true, s.drawn_collision_iff]
    rintro ⟨px, py, hon, hlit⟩
    exact Bool.false_ne_true ((h px py hon).symm.trans hlit)
  rw [State.afterDrw_get, if_pos rfl, hcollision]
  rfl

theorem State.afterDrw_get_other (s : State) (x y : Reg) (n : BitVec 4) {r : Reg} (hr : r ≠ vf) :
    (s.afterDrw x y n).v[r] = s.v[r] := by
  rw [State.afterDrw_get, if_neg hr]

end Draw

/-- Settles O33: a draw toggles the pixels under the sprite, and its collision flag goes to VF. -/
theorem drawFlipsUnderTheSprite : Obligations.DrawFlipsUnderTheSprite :=
  fun x y n s _ => ⟨_, exec_drw x y n s, rfl,
    fun _ _ hpx hpy => ⟨State.afterDrw_pixel_on, State.afterDrw_pixel_off hpx hpy⟩,
    State.afterDrw_vf_one, State.afterDrw_vf_zero, fun _ => s.afterDrw_get_other x y n, rfl, fun _ => rfl⟩

/-! ## The double draw -/

theorem Framebuffer.ext_pixel {fb fb' : Framebuffer} (h : ∀ px py, px < 64 → py < 32 → fb.pixel px py = fb'.pixel px py) :
    fb = fb' := by
  refine Vector.ext fun py hpy => Vector.ext fun px hpx => ?_
  simpa only [Framebuffer.pixel, Nat.mod_eq_of_lt hpx, Nat.mod_eq_of_lt hpy] using h px py hpx hpy

/-- Where neither coordinate is VF, a draw leaves its own sprite in place (R184). -/
theorem State.afterDrw_spriteOn (s : State) {x y : Reg} (n : BitVec 4) (hx : x ≠ vf) (hy : y ≠ vf) (px py : Nat) :
    (s.afterDrw x y n).SpriteOn x y n px py ↔ s.SpriteOn x y n px py := by
  rw [State.SpriteOn, s.afterDrw_get_other x y n hx, s.afterDrw_get_other x y n hy]
  rfl

theorem State.afterDrw_afterDrw_fb (s : State) {x y : Reg} (n : BitVec 4) (hx : x ≠ vf) (hy : y ≠ vf) :
    ((s.afterDrw x y n).afterDrw x y n).fb = s.fb := by
  refine Framebuffer.ext_pixel fun px py hpx hpy => ?_
  have hsame := s.afterDrw_spriteOn n hx hy px py
  by_cases hon : s.SpriteOn x y n px py
  · rw [State.afterDrw_pixel_on (hsame.mpr hon), State.afterDrw_pixel_on hon, Bool.not_not]
  · rw [State.afterDrw_pixel_off hpx hpy (mt hsame.mp hon), State.afterDrw_pixel_off hpx hpy hon]

/-- Settles O34: the second draw has the same sprite, and finds each pixel under it as the first left it, flipped. -/
theorem doubleDrawRestores : Obligations.DoubleDrawRestores := by
  intro x y n s t u _ hx hy ht hu
  obtain rfl := Host.Outcome.next.inj ((exec_drw x y n s).symm.trans ht)
  obtain rfl := Host.Outcome.next.inj ((exec_drw x y n _).symm.trans hu)
  have hsame := s.afterDrw_spriteOn n hx hy
  refine ⟨s.afterDrw_afterDrw_fb n hx hy, ?_, fun hlit => ?_⟩
  · rintro ⟨px, py, hon, hunlit⟩
    refine State.afterDrw_vf_one ⟨px, py, (hsame px py).mpr hon, ?_⟩
    rw [State.afterDrw_pixel_on hon, hunlit, Bool.not_false]
  · refine State.afterDrw_vf_zero fun px py hon => ?_
    have hon' := (hsame px py).mp hon
    rw [State.afterDrw_pixel_on hon', hlit px py hon', Bool.not_true]

end Sys2Proof.Machine

/-! PROOFS. The index register and memory transfers (43_index_memory.md): what I takes, that a block store stores all its
bytes or, where the strict mode forbids an address, none, and what a block load puts in the registers. -/

namespace Sys2Proof.Machine

/-! ## The index register -/

theorem exec_sets_index {i : Instr} {s : State} {a : Word} {n : Nat} (h : exec i s = .next { s.advance with i := a })
    (ha : a.toNat = n) : ∃ t, exec i s = .next t ∧ t.pc = s.pc + 2 ∧ t.i.toNat = n ∧ OnlyIndexChanges s t :=
  ⟨_, h, rfl, ha, rfl, fun _ => rfl⟩

theorem index_add_byte_toNat (i : Word) (b : Byte) : (i + b.zeroExtend 16).toNat = (i.toNat + b.toNat) % 0x10000 := by
  have hb : (b.zeroExtend 16).toNat = b.toNat := BitVec.toNat_setWidth_of_le (by decide)
  rw [BitVec.toNat_add, hb]

theorem byte_and_0F_toNat (b : Byte) : (b &&& 0x0F#8).toNat = b.toNat % 16 :=
  (BitVec.toNat_and b 0x0F#8).trans (Nat.and_two_pow_sub_one_eq_mod b.toNat 4)

/-- A glyph's address is 75 at most, so 16 bits hold it (R204). -/
theorem State.glyphAddress_toNat (s : State) (x : Reg) : (s.glyphAddress x).toNat = 5 * (s.v[x].toNat % 16) := by
  rw [State.glyphAddress, BitVec.toNat_ofNat, byte_and_0F_toNat]
  omega

/-- Settles O35: all three are a write of I, each value taken as a number. -/
theorem indexRegister : Obligations.IndexRegister :=
  fun nnn x s => ⟨exec_sets_index rfl (absoluteAddress_toNat nnn), exec_sets_index rfl (index_add_byte_toNat s.i s.v[x]),
    exec_sets_index rfl (s.glyphAddress_toNat x)⟩

/-! ## The strict mode and a block store (R64, R65) -/

theorem State.writeForbidden_iff (s : State) (ea : Nat) : s.writeForbidden ea = true ↔ s.StrictForbids ea := by
  simp only [State.writeForbidden, State.StrictForbids, Bool.and_eq_true, Bool.or_eq_true, decide_eq_true_eq]

theorem State.memWrite_allowed {s : State} {ea : Nat} (b : Byte) (h : ¬ s.StrictForbids ea) :
    s.memWrite ea b = .ok (s.poke ea b) :=
  if_neg fun hforbidden => h ((s.writeForbidden_iff ea).mp hforbidden)

theorem State.memWrite_forbidden {s : State} {ea : Nat} (b : Byte) (h : s.StrictForbids ea) :
    s.memWrite ea b = .error (.strictWriteViolation (BitVec.ofNat 16 ea)) :=
  if_pos ((s.writeForbidden_iff ea).mpr h)

theorem State.storeBytes_cons_allowed {s : State} {ea : Nat} (b : Byte) (bs : List Byte) (h : ¬ s.StrictForbids ea) :
    s.storeBytes ea (b :: bs) = (s.poke ea b).storeBytes (ea + 1) bs := by
  rw [State.storeBytes, State.memWrite_allowed b h]

theorem State.storeBytes_allowed {s : State} {ea : Nat} {bs : List Byte}
    (h : ∀ k, k < bs.length → ¬ s.StrictForbids (ea + k)) : ∃ t, s.storeBytes ea bs = .ok t := by
  induction bs generalizing s ea with
  | nil => exact ⟨s, rfl⟩
  | cons b bs ih =>
    have hfirst : ¬ s.StrictForbids ea := h 0 (Nat.succ_pos _)
    rw [State.storeBytes_cons_allowed b bs hfirst]
    refine ih fun k hk => ?_
    rw [Nat.add_right_comm]
    exact h (k + 1) (Nat.succ_lt_succ hk)

/-- A block store raises at the lowest address that the strict mode forbids (R264). -/
theorem State.storeBytes_forbidden {s : State} {ea k : Nat} {bs : List Byte} (hk : k < bs.length)
    (hforbids : s.StrictForbids (ea + k)) (hbelow : ∀ j, j < k → ¬ s.StrictForbids (ea + j)) :
    s.storeBytes ea bs = .error (.strictWriteViolation (BitVec.ofNat 16 (ea + k))) := by
  induction bs generalizing s ea k with
  | nil => exact absurd hk (Nat.not_lt_zero k)
  | cons b bs ih =>
    cases k with
    | zero => rw [Nat.add_zero, State.storeBytes, State.memWrite_forbidden (ea := ea) b hforbids]
    | succ k =>
      have hfirst : ¬ s.StrictForbids ea := hbelow 0 (Nat.succ_pos k)
      have haddr : ∀ j, ea + 1 + j = ea + (j + 1) := fun j => Nat.add_right_comm ea 1 j
      have hrest := ih (s := s.poke ea b) (ea := ea + 1) (Nat.lt_of_succ_lt_succ hk)
      simp only [haddr] at hrest
      rw [State.storeBytes_cons_allowed b bs hfirst]
      exact hrest hforbids fun j hj => hbelow (j + 1) (Nat.succ_lt_succ hj)

/-! ## An instruction by its store's answer: `execLdBVx_cases` and `execStore_cases` have this form -/

section StoreAnswers

variable {s : State} {stored : Except CoreError State} {answer : StepOutcome} {finish : State → State}
  (hcases : (∃ e, stored = .error e ∧ answer = .next (s.raise e)) ∨ ∃ u, stored = .ok u ∧ answer = .next (finish u))

include hcases

theorem answer_of_store_ok {t : State} (h : stored = .ok t) : answer = .next (finish t) := by
  rcases hcases with ⟨e, herror, -⟩ | ⟨u, hok, hnext⟩
  · cases h.symm.trans herror
  · obtain rfl := Except.ok.inj (h.symm.trans hok)
    exact hnext

theorem answer_of_store_error {e : CoreError} (h : stored = .error e) : answer = .next (HaltedWith s e) := by
  rcases hcases with ⟨e', herror, hraise⟩ | ⟨u, hok, -⟩
  · obtain rfl := Except.error.inj (h.symm.trans herror)
    exact hraise
  · cases h.symm.trans hok

end StoreAnswers

/-! ## The store of the decimal digits -/

theorem bcdDigits_get (b : Byte) {k : Nat} (hk : k < 3) : ((bcdDigits b)[k]?).getD 0 =
    BitVec.ofNat 8 (if k = 0 then b.toNat / 100 else if k = 1 then b.toNat / 10 % 10 else b.toNat % 10) := by
  match k, hk with
  | 0, _ => rfl
  | 1, _ => rfl
  | 2, _ => rfl

theorem BlockStored.congr {s t : State} {n : Nat} {f g : Nat → Byte} (h : BlockStored s t n f)
    (hfg : ∀ k, k < n → f k = g k) : BlockStored s t n g := by
  obtain ⟨hinside, houtside⟩ := h
  exact ⟨fun k hk => (hinside k hk).trans (hfg k hk), houtside⟩

/-- A block store in a cycle changes memory and PC only. -/
theorem State.advance_storeBytes_frame {s t : State} {ea : Nat} {bs : List Byte}
    (h : s.advance.storeBytes ea bs = .ok t) : t.pc = s.pc + 2 ∧ t = { s with mem := t.mem, pc := t.pc } := by
  rw [(State.storeBytes_frame h).1]
  exact ⟨rfl, rfl⟩

/-- Settles O36: the block store of the three digits, allowed at each of its addresses or forbidden at one. -/
theorem bcdStore : Obligations.BcdStore := by
  intro x s hwf
  refine ⟨fun hallowed => ?_, fun k ⟨hk, hforbids, hbelow⟩ => ?_⟩
  · obtain ⟨t, hstore⟩ := State.storeBytes_allowed (s := s.advance) (bs := bcdDigits s.v[x]) hallowed
    obtain ⟨hpc, hframe⟩ := State.advance_storeBytes_frame hstore
    have hstored : BlockStored s t 3 fun k => ((bcdDigits s.v[x])[k]?).getD 0 :=
      State.blockStored_of_storeBytes (s := s.advance) hwf (bs := bcdDigits s.v[x]) (by decide : 3 ≤ 0x1000) hstore
    exact ⟨t, answer_of_store_ok (execLdBVx_cases x s) hstore, hpc, hstored.congr fun _ => bcdDigits_get s.v[x], hframe⟩
  · exact answer_of_store_error (execLdBVx_cases x s) (State.storeBytes_forbidden (s := s.advance) hk hforbids hbelow)

/-! ## The block transfers -/

/-- A block transfer moves I past the block, mod 0x10000, under its quirk only (R208, R210). -/
theorem State.indexAfterBlock_i_toNat (s : State) (x : Reg) : (s.indexAfterBlock x).i.toNat =
    if s.config.quirkMemIncI = true then (s.i.toNat + x.val + 1) % 0x10000 else s.i.toNat := by
  rw [State.indexAfterBlock_i, apply_ite BitVec.toNat, BitVec.toNat_add, BitVec.toNat_ofNat, Nat.add_mod_mod,
    ← Nat.add_assoc]

/-- What FX55 changes beside memory, its store answering: PC, and I under its quirk. -/
theorem State.advance_storeBytes_indexAfterBlock {s t : State} {ea : Nat} {bs : List Byte} (x : Reg)
    (h : s.advance.storeBytes ea bs = .ok t) : (t.indexAfterBlock x).pc = s.pc + 2 ∧
      (t.indexAfterBlock x).i.toNat =
        (if s.config.quirkMemIncI = true then (s.i.toNat + x.val + 1) % 0x10000 else s.i.toNat) ∧
      t.indexAfterBlock x =
        { s with mem := (t.indexAfterBlock x).mem, i := (t.indexAfterBlock x).i, pc := (t.indexAfterBlock x).pc } := by
  rw [State.indexAfterBlock_i_toNat, State.indexAfterBlock_frame, (State.storeBytes_frame h).1]
  exact ⟨rfl, rfl, rfl⟩

/-- Settles O37: the block store of V0 to VX, allowed at each of its addresses or forbidden at one. -/
theorem blockStore : Obligations.BlockStore := by
  intro x s hwf
  have hlen := s.regsUpTo_length x
  refine ⟨fun hallowed => ?_, fun k ⟨hk, hforbids, hbelow⟩ => ?_⟩
  · rw [← hlen] at hallowed
    obtain ⟨t, hstore⟩ := State.storeBytes_allowed (s := s.advance) hallowed
    obtain ⟨hpc, hi, hframe⟩ := State.advance_storeBytes_indexAfterBlock x hstore
    exact ⟨_, answer_of_store_ok (execStore_cases x s) hstore, hpc, State.blockStored_of_regsUpTo hwf hstore, hi, hframe⟩
  · rw [← hlen] at hk
    exact answer_of_store_error (execStore_cases x s) (State.storeBytes_forbidden (s := s.advance) hk hforbids hbelow)

/-- A load of V0 to VX from the address `ea` of `m` on (R210). -/
theorem State.setRegsFrom_readBytes_get (s m : State) (ea : Nat) (x r : Reg) :
    (s.setRegsFrom 0 (m.readBytes ea (x.val + 1))).v[r] = if r.val ≤ x.val then m.memRead (ea + r.val) else s.v[r] := by
  rw [State.setRegsFrom_get, if_pos (Nat.zero_le _), Nat.sub_zero]
  by_cases hr : r.val ≤ x.val
  · rw [if_pos hr, m.readBytes_get ea _ _ (Nat.lt_succ_of_le hr), Option.getD_some]
  · have hbeyond : (m.readBytes ea (x.val + 1)).length ≤ r.val := by
      rw [m.readBytes_length]
      omega
    rw [if_neg hr, List.getElem?_eq_none hbeyond, Option.getD_none]

/-- Settles O38: the load of the block, then the move of I; neither writes memory. -/
theorem blockLoad : Obligations.BlockLoad := by
  intro x s
  refine ⟨_, rfl, ?_⟩
  rw [State.indexAfterBlock_i_toNat, State.indexAfterBlock_frame, State.setRegsFrom_frame]
  exact ⟨rfl, State.setRegsFrom_readBytes_get s.advance s s.i.toNat x, rfl, rfl, fun _ => rfl⟩

end Sys2Proof.Machine

/-! PROOFS. Timers and keypad (44_timers_keypad.md): the timer accesses, the key skips, the latch and the new presses
of a key batch (60_exceptions.md R285), and the wait for a key from its start to its end. -/

namespace Sys2Proof.Machine

/-! ## Timer accesses -/

/-- Settles O40: FX07 is a write of VX; the other two write one timer, and `sound_on` reads ST. -/
theorem timerAccess : Obligations.TimerAccess :=
  fun _ _ => ⟨exec_sets_register rfl, ⟨_, rfl, rfl, rfl, rfl, fun _ => rfl⟩,
    ⟨_, rfl, rfl, rfl, rfl, fun _ => rfl, State.soundOn_iff _⟩⟩

/-! ## Key skips -/

theorem State.keyOperand_val (s : State) (x : Reg) : (s.keyOperand x).val = s.v[x].toNat % 16 := by
  rw [State.keyOperand, Fin.val_ofNat, byte_and_0F_toNat, Nat.mod_mod]

theorem exec_skp (x : Reg) (s : State) :
    exec (.skp x) s = .next (s.advance.skipIf (decide (s.key[s.keyOperand x] = true))) := by
  rw [Bool.decide_eq_true]
  rfl

theorem exec_sknp (x : Reg) (s : State) :
    exec (.sknp x) s = .next (s.advance.skipIf (decide ¬(s.key[s.keyOperand x] = true))) := by
  rw [decide_not, Bool.decide_eq_true]
  rfl

/-- Settles O41: one skip on the key of the low nibble, one on its negation. -/
theorem skipsOnKey : Obligations.SkipsOnKey := by
  intro x s k hk
  obtain rfl : k = s.keyOperand x := Fin.ext (hk.trans (s.keyOperand_val x).symm)
  exact ⟨exec_skips_if (exec_skp x s), exec_skips_unless (exec_sknp x s)⟩

/-! ## A tick -/

theorem countDown_eq_ofNat (b : Byte) : countDown b = BitVec.ofNat 8 (b.toNat - 1) := by
  rw [countDown]
  split
  · next hzero =>
    subst hzero
    rfl
  · next hpos => bv_omega

theorem State.tick_running {s : State} (hrun : s.runState = .running) :
    s.tick = { s with dt := BitVec.ofNat 8 (s.dt.toNat - 1), st := BitVec.ofNat 8 (s.st.toNat - 1) } := by
  simp only [State.tick, hrun, countDown_eq_ofNat]

/-! ## A key batch (R285 to R287) -/

theorem KeyScan.batch_key (a : KeyScan) (batch : List (Key × Bool)) :
    (a.batch batch).key = latchAfter a.key batch := by
  induction batch generalizing a with
  | nil => rfl
  | cons entry rest ih => exact ih (a.entry entry.1 entry.2)

theorem not_newPress_nil (key : Vector Bool 16) (k : Key) : ¬ NewPress key [] k := by
  rintro ⟨before, after, hsplit, -⟩
  exact List.append_ne_nil_of_right_ne_nil before (List.cons_ne_nil _ after) hsplit.symm

/-- A new press is the first entry, or one of the rest against the latch that the first entry leaves. -/
theorem newPress_cons (key : Vector Bool 16) (j : Key) (p : Bool) (rest : List (Key × Bool)) (k : Key) :
    NewPress key ((j, p) :: rest) k ↔
      (k = j ∧ p = true ∧ key[j] = false) ∨ NewPress (key.set j.val p j.isLt) rest k := by
  constructor
  · rintro ⟨_ | ⟨first, before⟩, after, hsplit, hlatch⟩
    · obtain ⟨⟨rfl, rfl⟩, -⟩ := hsplit
      exact .inl ⟨rfl, rfl, hlatch⟩
    · obtain ⟨rfl, hrest⟩ := List.cons.inj hsplit
      exact .inr ⟨before, after, hrest, hlatch⟩
  · rintro (⟨rfl, rfl, hlatch⟩ | ⟨before, after, rfl, hlatch⟩)
    · exact ⟨[], rest, rfl, hlatch⟩
    · exact ⟨(j, p) :: before, after, rfl, hlatch⟩

theorem KeyScan.mem_entry_pressed (a : KeyScan) (j : Key) (p : Bool) (k : Key) :
    k ∈ (a.entry j p).pressed ↔ k ∈ a.pressed ∨ (k = j ∧ p = true ∧ a.key[j] = false) := by
  cases p <;> cases hlatch : a.key[j] <;> simp [KeyScan.entry, hlatch, or_comm]

theorem KeyScan.mem_batch_pressed (a : KeyScan) (batch : List (Key × Bool)) (k : Key) :
    k ∈ (a.batch batch).pressed ↔ k ∈ a.pressed ∨ NewPress a.key batch k := by
  induction batch generalizing a with
  | nil => exact (or_iff_left (not_newPress_nil a.key k)).symm
  | cons entry rest ih =>
    obtain ⟨j, p⟩ := entry
    rw [KeyScan.batch, ih, KeyScan.mem_entry_pressed, newPress_cons, or_assoc]
    rfl

theorem State.scanKeys_key (s : State) (batch : List (Key × Bool)) :
    (s.scanKeys batch).key = latchAfter s.key batch :=
  KeyScan.batch_key _ batch

theorem State.mem_scanKeys_pressed (s : State) (batch : List (Key × Bool)) (k : Key) :
    k ∈ (s.scanKeys batch).pressed ↔ NewPress s.key batch k :=
  (KeyScan.mem_batch_pressed _ batch k).trans (or_iff_right List.not_mem_nil)

/-- R287: with no new press, P has no least element. -/
theorem State.lowestKey_scanKeys_none {s : State} {batch : List (Key × Bool)} (h : ∀ k, ¬ NewPress s.key batch k) :
    lowestKey (s.scanKeys batch).pressed = none := by
  rcases lowestKey_spec (s.scanKeys batch).pressed with ⟨-, hnone⟩ | ⟨k, -, hk, -⟩
  · exact hnone
  · exact absurd ((s.mem_scanKeys_pressed batch k).mp hk) (h k)

/-- R286: the least of the new presses is `min(P)`. -/
theorem State.lowestKey_scanKeys_some {s : State} {batch : List (Key × Bool)} {k : Key} (hk : NewPress s.key batch k)
    (hleast : ∀ j, NewPress s.key batch j → k ≤ j) : lowestKey (s.scanKeys batch).pressed = some k := by
  have hmem := (s.mem_scanKeys_pressed batch k).mpr hk
  rcases lowestKey_spec (s.scanKeys batch).pressed with ⟨hempty, -⟩ | ⟨m, hm, hpressed, hle⟩
  · exact absurd hmem (hempty ▸ List.not_mem_nil)
  · have hkm : k ≤ m := hleast m ((s.mem_scanKeys_pressed batch m).mp hpressed)
    rw [hm, le_antisymm (hle k hmem) hkm]

theorem State.keysEvent_running {s : State} (hrun : s.runState = .running) (batch : List (Key × Bool)) :
    s.keysEvent batch =
      State.resolveWait { s with key := latchAfter s.key batch } (s.scanKeys batch).pressed := by
  simp only [State.keysEvent, hrun, State.scanKeys_key]

theorem State.resolveWait_none (s : State) {pressed : List Key} (h : lowestKey pressed = none) :
    s.resolveWait pressed = s := by
  rcases s.resolveWait_cases pressed with ⟨x, k, -, -, hk, -⟩ | ⟨-, hkept⟩
  · exact nomatch h.symm.trans hk
  · exact hkept

theorem State.keysEvent_latch_only {s : State} (hrun : s.runState = .running) {batch : List (Key × Bool)}
    (h : ∀ k, ¬ NewPress s.key batch k) : s.keysEvent batch = { s with key := latchAfter s.key batch } :=
  (State.keysEvent_running hrun batch).trans (State.resolveWait_none _ (State.lowestKey_scanKeys_none h))

theorem State.keysEvent_ends_wait {s : State} (hrun : s.runState = .running) {x : Reg} (hawait : s.await = some x)
    {batch : List (Key × Bool)} {k : Key} (hk : NewPress s.key batch k)
    (hleast : ∀ j, NewPress s.key batch j → k ≤ j) :
    s.keysEvent batch = State.endWait { s with key := latchAfter s.key batch } x k := by
  simp only [State.keysEvent_running hrun, State.resolveWait, hrun, hawait, State.lowestKey_scanKeys_some hk hleast]

/-- The new presses of a batch of one entry. -/
theorem newPress_singleton (key : Vector Bool 16) (k j : Key) :
    NewPress key [(k, true)] j ↔ j = k ∧ key[k] = false := by
  rw [newPress_cons, or_iff_left (not_newPress_nil _ j), and_iff_right rfl]

theorem State.keysEvent_single_press {s : State} (hrun : s.runState = .running) {x : Reg} (hawait : s.await = some x)
    {k : Key} (hk : s.key[k] = false) :
    s.keysEvent [(k, true)] = State.endWait { s with key := latchAfter s.key [(k, true)] } x k :=
  State.keysEvent_ends_wait hrun hawait ((newPress_singleton s.key k k).mpr ⟨rfl, hk⟩)
    fun j hj => ((newPress_singleton s.key k j).mp hj).1.ge

/-! ## The wait for a key -/

/-- The state in which FX0A leaves the machine: PC stays at the instruction (R250). -/
def State.awaiting (s : State) (x : Reg) : State := { s with await := some x }

theorem exec_ldVxK (x : Reg) (s : State) : exec (.ldVxK x) s = .next (s.awaiting x) := rfl

/-- Only a new press or a load takes a Running machine out of a wait (R250, R286). -/
theorem State.applyEvent_ends_wait {s u : State} {e : Event} (hrun : s.runState = .running) {x : Reg}
    (hawait : s.await = some x) (h : s.applyEvent e = .next u) (hended : u.await = none) :
    (∃ batch k, e = .keys batch ∧ NewPress s.key batch k) ∨ ∃ rom programId, e = .load rom programId := by
  have hchanged : u.await ≠ s.await := by
    rw [hended, hawait]
    exact nofun
  cases e with
  | load rom programId => exact .inr ⟨rom, programId, rfl⟩
  | loadUnreadable =>
    obtain rfl := Host.Outcome.next.inj h
    exact absurd rfl hchanged
  | cycle =>
    have hidle : s.cycle = .next s := State.cycle_idle (.inr (hawait ▸ nofun))
    obtain rfl := Host.Outcome.next.inj (hidle.symm.trans h)
    exact absurd rfl hchanged
  | tick =>
    obtain rfl := Host.Outcome.next.inj h
    exact absurd ((congrArg State.await s.tick_frame).trans rfl) hchanged
  | keys batch =>
    obtain rfl := Host.Outcome.next.inj h
    by_contra hnone
    have hquiet : ∀ k, ¬ NewPress s.key batch k := fun k hk => hnone (.inl ⟨batch, k, rfl, hk⟩)
    exact hchanged ((congrArg State.await (State.keysEvent_latch_only hrun hquiet)).trans rfl)
  | pauseToggle =>
    obtain rfl := Host.Outcome.next.inj h
    exact absurd ((congrArg State.await s.pauseToggle_frame).trans rfl) hchanged
  | quit =>
    obtain rfl := Host.Outcome.next.inj h
    exact absurd ((congrArg State.await s.quit_frame).trans rfl) hchanged

/-- Settles O42: the FX0A's own state, then each event on it. -/
theorem waitForKey : Obligations.WaitForKey := by
  intro x s hrun hnone
  have hwaits : (s.awaiting x).runState = .running := hrun
  refine ⟨s.awaiting x, exec_ldVxK x s, rfl, ?_, ?_, fun batch hquiet => ?_, fun k hk => ?_, fun e u h hended => ?_⟩
  · exact State.cycle_idle (.inr nofun)
  · exact congrArg Host.Outcome.next (State.tick_running hwaits)
  · exact congrArg Host.Outcome.next (State.keysEvent_latch_only hwaits hquiet)
  · refine ⟨_, congrArg Host.Outcome.next (State.keysEvent_single_press hwaits rfl hk), rfl, rfl, rfl,
      fun r => State.setV_get _ x r _, ?_⟩
    simp only [State.endWait, State.awaiting, State.setV, State.advance, hnone]
  · exact State.applyEvent_ends_wait (s := s.awaiting x) hwaits rfl h hended

end Sys2Proof.Machine

/-! PROOFS. Events (60_exceptions.md): which event a step applies, ticks one after the other, key batches, the run-state
transitions, and what an error leaves. -/

namespace Sys2Proof.Machine

/-! ## The event a step applies (R281, R282, log entry 2) -/

theorem step_of_pending {s : State} {e : Event} {rest : List Event} (h : s.pending = e :: rest) :
    step s = State.applyEvent { s with pending := rest } e := by
  simp only [step, State.nextEvent, State.dueEvent, State.takeEvent, h]

theorem State.dueEvent_of_recurring {s : State} {e : Event} {rest : List Event} (hpending : s.pending = [])
    (h : s.recurring = e :: rest) : s.dueEvent = e := by
  simp only [State.dueEvent, hpending, h]

theorem step_of_recurring {s : State} {e : Event} {rest : List Event} (hpending : s.pending = [])
    (h : s.recurring = e :: rest) : step s = State.applyEvent { s with recurring := rest ++ [e] } e := by
  rw [step, State.nextEvent, State.dueEvent_of_recurring hpending h]
  simp only [State.takeEvent, hpending, h]

theorem step_of_arrival {s : State} (hpending : s.pending = []) (hrecurring : s.recurring = []) :
    step s = State.applyEvent { s with arrivals := s.arrivals + 1 } (Config.arrival s.arrivals) := by
  simp only [step, State.nextEvent, State.dueEvent, State.takeEvent, hpending, hrecurring]

/-- Settles O54: by the source that holds the event. -/
theorem stepAppliesTheNextEvent : Obligations.StepAppliesTheNextEvent :=
  fun _ => ⟨fun _ _ => step_of_pending, fun _ _ => step_of_recurring, step_of_arrival⟩

/-- Settles O9: the next state of `step_next_config`. -/
theorem everyStepAnswersANextState : Obligations.EveryStepAnswersANextState := by
  intro s
  obtain ⟨t, h, -⟩ := step_next_config s
  exact ⟨t, h⟩

/-! ## Ticks (R270, R271) -/

/-- `s` with each timer down by `n`, not below 0: what `n` ticks make of a Running machine. -/
def State.countedDown (s : State) (n : Nat) : State :=
  { s with dt := BitVec.ofNat 8 (s.dt.toNat - n), st := BitVec.ofNat 8 (s.st.toNat - n) }

/-- A timer that counts down stays a byte. -/
theorem byte_ofNat_sub_toNat (b : Byte) (n : Nat) : (BitVec.ofNat 8 (b.toNat - n)).toNat = b.toNat - n :=
  Nat.mod_eq_of_lt (Nat.lt_of_le_of_lt (Nat.sub_le b.toNat n) b.isLt)

theorem State.countedDown_dt_toNat (s : State) (n : Nat) : (s.countedDown n).dt.toNat = s.dt.toNat - n :=
  byte_ofNat_sub_toNat s.dt n

theorem State.countedDown_st_toNat (s : State) (n : Nat) : (s.countedDown n).st.toNat = s.st.toNat - n :=
  byte_ofNat_sub_toNat s.st n

theorem State.countedDown_zero (s : State) : s.countedDown 0 = s := by
  simp only [State.countedDown, Nat.sub_zero, BitVec.ofNat_toNat, BitVec.setWidth_eq]

theorem State.countedDown_countedDown (s : State) (m n : Nat) :
    (s.countedDown m).countedDown n = s.countedDown (m + n) := by
  simp only [State.countedDown, byte_ofNat_sub_toNat, Nat.sub_sub]

theorem State.tick_countsDown {s : State} (hrun : s.runState = .running) : s.tick = s.countedDown 1 :=
  State.tick_running hrun

theorem State.tick_idle {s : State} (h : s.runState ≠ .running) : s.tick = s := by
  unfold State.tick
  split
  · next hrun => exact absurd hrun h
  · rfl
  · rfl
  · rfl

/-- Settles O43: a tick is a count down by 1, or nothing. -/
theorem timerTick : Obligations.TimerTick := by
  intro s
  refine ⟨fun hrun => ?_, fun hidle => congrArg Host.Outcome.next (State.tick_idle hidle)⟩
  exact ⟨s.countedDown 1, congrArg Host.Outcome.next (State.tick_countsDown hrun), s.countedDown_dt_toNat 1,
    s.countedDown_st_toNat 1, rfl⟩

theorem steps_succ_of_step {s t : State} (h : step s = .next t) (n : Nat) : steps (n + 1) s = steps n t := by
  simp only [steps, h]

/-- A delivered tick comes off the list and counts down. -/
theorem step_of_pending_tick {s : State} {rest : List Event} (hrun : s.runState = .running)
    (h : s.pending = .tick :: rest) : step s = .next (State.countedDown { s with pending := rest } 1) :=
  (step_of_pending h).trans (congrArg Host.Outcome.next (State.tick_countsDown hrun))

/-- A recurring tick, the only event of its host, comes round again and counts down. -/
theorem step_of_recurring_tick {s : State} (hrun : s.runState = .running) (hpending : s.pending = [])
    (h : s.recurring = [.tick]) : step s = .next (s.countedDown 1) := by
  have hsame : ({ s with recurring := [] ++ [.tick] } : State) = s := by rw [List.nil_append, ← h]
  rw [step_of_recurring hpending h, hsame]
  exact congrArg Host.Outcome.next (State.tick_countsDown hrun)

theorem steps_of_pending_ticks (n : Nat) {s : State} {rest : List Event} (hrun : s.runState = .running)
    (h : s.pending = List.replicate n .tick ++ rest) :
    steps n s = .next (State.countedDown { s with pending := rest } n) := by
  induction n generalizing s with
  | zero =>
    have hrest : s.pending = rest := h
    rw [State.countedDown_zero, ← hrest, steps]
  | succ n ih =>
    calc steps (n + 1) s
      _ = steps n (State.countedDown { s with pending := List.replicate n .tick ++ rest } 1) :=
        steps_succ_of_step (step_of_pending_tick hrun h) n
      _ = .next ((State.countedDown { s with pending := rest } 1).countedDown n) := ih hrun rfl
      _ = .next (State.countedDown { s with pending := rest } (n + 1)) := by
        rw [State.countedDown_countedDown, Nat.add_comm]

theorem steps_of_recurring_ticks (n : Nat) {s : State} (hrun : s.runState = .running) (hpending : s.pending = [])
    (h : s.recurring = [.tick]) : steps n s = .next (s.countedDown n) := by
  induction n generalizing s with
  | zero => rw [State.countedDown_zero, steps]
  | succ n ih =>
    rw [steps_succ_of_step (step_of_recurring_tick hrun hpending h), ih (s := s.countedDown 1) hrun hpending h,
      State.countedDown_countedDown, Nat.add_comm]

/-- Settles O44: by induction on the ticks delivered. -/
theorem ticksCountDownAndClamp : Obligations.TicksCountDownAndClamp :=
  fun n s _ hrun h =>
    ⟨_, steps_of_pending_ticks n hrun h, byte_ofNat_sub_toNat s.dt n, byte_ofNat_sub_toNat s.st n, rfl⟩

/-- Settles O55: by induction on the number of steps; the count down leaves the host's ticks where they are. -/
theorem ticksWithoutEnd : Obligations.TicksWithoutEnd := fun n s hrun hpending h =>
  ⟨s.countedDown n, steps_of_recurring_ticks n hrun hpending h, State.dueEvent_of_recurring hpending h,
    s.countedDown_dt_toNat n, s.countedDown_st_toNat n, rfl⟩

/-! ## Key batches (R285 to R287) -/

theorem State.keysEvent_ignored {s : State} (h : s.runState = .halted ∨ s.runState = .stopped)
    (batch : List (Key × Bool)) : s.keysEvent batch = s := by
  rcases h with h | h <;> simp only [State.keysEvent, h]

theorem State.resolveWait_idle (s : State) (h : s.runState ≠ .running ∨ s.await = none) (pressed : List Key) :
    s.resolveWait pressed = s := by
  rcases s.resolveWait_cases pressed with ⟨x, k, hrun, hawait, -, -⟩ | ⟨-, hkept⟩
  · exact absurd h (by simp [hrun, hawait])
  · exact hkept

theorem State.keysEvent_paused {s : State} (hpaused : s.runState = .paused) (batch : List (Key × Bool)) :
    s.keysEvent batch = { s with key := latchAfter s.key batch } := by
  have hwait := State.resolveWait_idle { s with key := latchAfter s.key batch } (.inl (hpaused ▸ nofun))
    (s.scanKeys batch).pressed
  simp only [State.keysEvent, hpaused, State.scanKeys_key]
  rw [← hpaused]
  exact hwait

theorem State.keysEvent_no_wait {s : State} (hrun : s.runState = .running) (hawait : s.await = none)
    (batch : List (Key × Bool)) : s.keysEvent batch = { s with key := latchAfter s.key batch } :=
  (State.keysEvent_running hrun batch).trans
    (State.resolveWait_idle { s with key := latchAfter s.key batch } (.inr hawait) _)

theorem State.resolveWait_key (s : State) (pressed : List Key) : (s.resolveWait pressed).key = s.key :=
  (congrArg State.key (s.resolveWait_frame pressed)).trans rfl

/-- R285: a live machine gets the latch, whatever becomes of its wait. -/
theorem State.keysEvent_key {s : State} (h : s.runState = .running ∨ s.runState = .paused)
    (batch : List (Key × Bool)) : (s.keysEvent batch).key = latchAfter s.key batch := by
  rcases h with hrun | hpaused
  · rw [State.keysEvent_running hrun, State.resolveWait_key]
  · rw [State.keysEvent_paused hpaused]

/-- R286, R287: where no wait ends, the latch is all that a live machine gets. -/
theorem State.keysEvent_of_no_wait_ended {s : State} {batch : List (Key × Bool)}
    (hlive : s.runState = .running ∨ s.runState = .paused)
    (h : s.runState = .paused ∨ s.await = none ∨ ∀ k, ¬ NewPress s.key batch k) :
    s.keysEvent batch = { s with key := latchAfter s.key batch } := by
  rcases hlive with hrun | hpaused
  · rcases h with hpaused | hawait | hquiet
    · exact State.keysEvent_paused hpaused batch
    · exact State.keysEvent_no_wait hrun hawait batch
    · exact State.keysEvent_latch_only hrun hquiet
  · exact State.keysEvent_paused hpaused batch

/-- Settles O45: ignored; else the latch, then the end of the wait by the least new press, or nothing more. -/
theorem keyBatch : Obligations.KeyBatch := by
  intro batch s
  refine ⟨fun h => congrArg Host.Outcome.next (State.keysEvent_ignored h batch), fun hlive => ?_⟩
  refine ⟨s.keysEvent batch, rfl, State.keysEvent_key hlive batch, fun x k hrun hawait hk hleast => ?_, fun h => ?_⟩
  · rw [State.keysEvent_ends_wait hrun hawait hk hleast]
    exact ⟨rfl, rfl, fun r => State.setV_get _ x r _, rfl⟩
  · rw [State.keysEvent_of_no_wait_ended hlive h]

theorem State.keysEvent_runState (s : State) (batch : List (Key × Bool)) : (s.keysEvent batch).runState = s.runState :=
  (congrArg State.runState (s.keysEvent_frame batch)).trans rfl

theorem State.tick_runState (s : State) : s.tick.runState = s.runState :=
  (congrArg State.runState s.tick_frame).trans rfl

/-- Settles O48: each of the three by its lemma for a machine that is not Running. -/
theorem pausedFreezesTheMachine : Obligations.PausedFreezesTheMachine := by
  intro s hpaused
  have hidle : s.runState ≠ .running := hpaused ▸ nofun
  exact ⟨State.cycle_idle (.inl hidle), congrArg Host.Outcome.next (State.tick_idle hidle),
    fun batch => congrArg Host.Outcome.next (State.keysEvent_paused hpaused batch)⟩

/-! ## Errors (R262) -/

theorem Effect.keeps_runState_or_halts {i : Instr} {s t : State} (heffect : Effect i s t) :
    t.runState = s.runState ∨ ∃ e : CoreError, e.isLoadResult = false ∧ t = HaltedWith s e := by
  cases heffect with
  | error e he => exact .inr ⟨e, he, rfl⟩
  | _ => exact .inl rfl

/-- A cycle changes the run state by a run-time error only, which nothing but the error comes with. -/
theorem State.cycle_keeps_runState_or_halts {s t : State} (h : s.cycle = .next t) :
    t.runState = s.runState ∨
      (s.runState = .running ∧ ∃ e : CoreError, e.isLoadResult = false ∧ t = HaltedWith s e) := by
  rcases State.cycle_effect h with rfl | ⟨hrun, -, ⟨-, i, heffect⟩ | herror⟩
  · exact .inl rfl
  · exact heffect.keeps_runState_or_halts.imp_right (And.intro hrun)
  · exact .inr ⟨hrun, herror⟩

/-- A load never halts a machine that was not Halted. -/
theorem State.afterLoad_load_runState (s : State) (rom : List Byte) (programId : ProgramId) :
    (s.afterLoad (load s.config rom programId)).runState = s.runState ∨
      (s.afterLoad (load s.config rom programId)).runState = .running := by
  rcases load_cases s.config rom programId with ⟨-, h⟩ | ⟨-, h⟩ <;> rw [h]
  · exact .inl rfl
  · exact .inr rfl

/-- Of the events, a Cycle alone halts a machine. -/
theorem State.applyEvent_halts {s t : State} {e : Event} (hlive : s.runState ≠ .halted)
    (h : s.applyEvent e = .next t) (hhalted : t.runState = .halted) :
    ∃ err : CoreError, err.isLoadResult = false ∧ t = HaltedWith s err := by
  have hchanged : t.runState ≠ s.runState := fun hsame => hlive (hsame.symm.trans hhalted)
  cases e with
  | cycle =>
    rcases State.cycle_keeps_runState_or_halts h with hsame | ⟨-, herror⟩
    · exact absurd hsame hchanged
    · exact herror
  | load rom programId =>
    obtain rfl := Host.Outcome.next.inj h
    rcases s.afterLoad_load_runState rom programId with hsame | hrun
    · exact absurd hsame hchanged
    · exact nomatch hrun.symm.trans hhalted
  | loadUnreadable =>
    obtain rfl := Host.Outcome.next.inj h
    exact absurd rfl hchanged
  | tick =>
    obtain rfl := Host.Outcome.next.inj h
    exact absurd s.tick_runState hchanged
  | keys batch =>
    obtain rfl := Host.Outcome.next.inj h
    exact absurd (s.keysEvent_runState batch) hchanged
  | pauseToggle =>
    obtain rfl := Host.Outcome.next.inj h
    rcases s.pauseToggle_cases with hp | ⟨-, r, hr, hp⟩
    · exact absurd (congrArg State.runState hp) hchanged
    · exact absurd ((congrArg State.runState hp).symm.trans hhalted) hr
  | quit =>
    obtain rfl := Host.Outcome.next.inj h
    rcases s.quit_cases with hq | ⟨-, r, hr, hq⟩
    · exact absurd (congrArg State.runState hq) hchanged
    · exact absurd ((congrArg State.runState hq).symm.trans hhalted) hr

/-- Settles O8: `applyEvent_halts` at the state after taking the event, whose run state is the old one. -/
theorem errorsLeaveThePreCycleState : Obligations.ErrorsLeaveThePreCycleState :=
  fun s _ hlive h hhalted => State.applyEvent_halts (s.takeEvent_runState.symm ▸ hlive) h hhalted

/-! ## The run states (R275) -/

/-- R275's row of PauseToggle. -/
def RunState.toggled : RunState → RunState
  | .running => .paused
  | .paused => .running
  | .halted => .halted
  | .stopped => .stopped

/-- R275's row of Quit. -/
def RunState.afterQuit : RunState → RunState
  | .running => .stopped
  | .paused => .stopped
  | .halted => .halted
  | .stopped => .stopped

theorem State.pauseToggle_eq (s : State) : s.pauseToggle = { s with runState := s.runState.toggled } := by
  have hrow : s.pauseToggle.runState = s.runState.toggled := by
    cases hstate : s.runState <;> simp only [State.pauseToggle, hstate, RunState.toggled]
  rw [← hrow]
  exact s.pauseToggle_frame

theorem State.quit_eq (s : State) : s.quit = { s with runState := s.runState.afterQuit } := by
  have hrow : s.quit.runState = s.runState.afterQuit := by
    cases hstate : s.runState <;> simp only [State.quit, hstate, RunState.afterQuit]
  rw [← hrow]
  exact s.quit_frame

theorem State.pauseToggle_ignored {s : State} (h : s.runState = .halted ∨ s.runState = .stopped) :
    s.pauseToggle = s := by
  rcases h with h | h <;> simp only [State.pauseToggle, h]

theorem State.quit_ignored {s : State} (h : s.runState = .halted ∨ s.runState = .stopped) : s.quit = s := by
  rcases h with h | h <;> simp only [State.quit, h]

theorem State.afterLoad_load_fits (s : State) {rom : List Byte} (programId : ProgramId) (hlen : rom.length ≤ 3584) :
    (s.afterLoad (load s.config rom programId)).runState = .running := by
  rcases load_cases s.config rom programId with ⟨hlong, -⟩ | ⟨-, h⟩
  · exact absurd hlen (Nat.not_le_of_lt hlong)
  · rw [h]
    rfl

theorem State.afterLoad_load_too_long (s : State) {rom : List Byte} (programId : ProgramId)
    (hlen : 3584 < rom.length) : s.afterLoad (load s.config rom programId) = s := by
  rcases load_cases s.config rom programId with ⟨-, h⟩ | ⟨hfits, -⟩
  · rw [h]
    rfl
  · exact absurd hlen (Nat.not_lt_of_le hfits)

/-- Settles O46: row by row. -/
theorem runStateTransitions : Obligations.RunStateTransitions := by
  intro s
  refine ⟨congrArg Host.Outcome.next s.pauseToggle_eq, congrArg Host.Outcome.next s.quit_eq, fun t h => ?_,
    fun t h => ?_, fun batch t h => ?_, fun t h => ?_, fun rom programId t hlen h => ?_⟩
  · rcases State.cycle_keeps_runState_or_halts h with hsame | ⟨hrun, e, -, herror⟩
    · exact .inl hsame
    · exact .inr ⟨hrun, e, herror⟩
  · obtain rfl := Host.Outcome.next.inj h
    exact s.tick_runState
  · obtain rfl := Host.Outcome.next.inj h
    exact s.keysEvent_runState batch
  · obtain rfl := Host.Outcome.next.inj h
    rfl
  · obtain rfl := Host.Outcome.next.inj h
    exact s.afterLoad_load_fits programId hlen

/-- Settles O47: event by event. -/
theorem haltedAndStoppedAreTerminal : Obligations.HaltedAndStoppedAreTerminal := by
  intro s e hover hlong
  have hidle : s.runState ≠ .running := by
    intro hrun
    rcases hover with h | h <;> exact nomatch hrun.symm.trans h
  cases e with
  | load rom programId =>
    exact congrArg Host.Outcome.next (s.afterLoad_load_too_long programId (hlong rom programId rfl))
  | loadUnreadable => rfl
  | cycle => exact State.cycle_idle (.inl hidle)
  | tick => exact congrArg Host.Outcome.next (State.tick_idle hidle)
  | keys batch => exact congrArg Host.Outcome.next (State.keysEvent_ignored hover batch)
  | pauseToggle => exact congrArg Host.Outcome.next (State.pauseToggle_ignored hover)
  | quit => exact congrArg Host.Outcome.next (State.quit_ignored hover)

end Sys2Proof.Machine

/-! PROOFS. Load and reset (70_reset_and_hazards.md): which ROMs load, the first cycle of the empty ROM, the invariants
of a loaded machine, and a load on a machine that exists. -/

namespace Sys2Proof.Machine

/-- Settles O13: `load_inv` and `load_pcBounded`, of which the bound on PC needs no valid configuration. -/
theorem loadedMachineMeetsTheInvariants : Obligations.LoadedMachineMeetsTheInvariants :=
  fun _ _ _ _ hvalid h => ⟨load_inv hvalid h, load_pcBounded h⟩

/-! ## Which ROMs load (R301) -/

theorem load_fits (c : Config) {rom : List Byte} (programId : ProgramId) (hlen : rom.length ≤ 3584) :
    ∃ m, load c rom programId = .ok m := by
  rcases load_cases c rom programId with ⟨hlong, -⟩ | ⟨-, h⟩
  · exact absurd hlen (Nat.not_le_of_lt hlong)
  · exact ⟨_, h⟩

theorem load_too_long (c : Config) {rom : List Byte} (programId : ProgramId) (hlen : 3584 < rom.length) :
    load c rom programId = .error (.romTooLarge rom.length) := by
  rcases load_cases c rom programId with ⟨-, h⟩ | ⟨hfits, -⟩
  · exact h
  · exact absurd hlen (Nat.not_lt_of_le hfits)

/-- The fields of a loaded machine that its first cycle looks at. -/
theorem load_starts {c : Config} {rom : List Byte} {programId : ProgramId} {m : State}
    (h : load c rom programId = .ok m) : m.runState = .running ∧ m.await = none ∧ m.pc = 0x200 := by
  obtain ⟨-, -, -, -, -, -, hpc, -, -, -, -, -, -, hrun, hawait, -⟩ := loadedMachine c rom programId m h
  exact ⟨hrun, hawait, hpc⟩

/-- R301: with no byte of a ROM in it, memory holds the word 0x0000 at the first PC. -/
theorem wordAtPc_load_empty {c : Config} {programId : ProgramId} {m : State} (h : load c [] programId = .ok m) :
    m.wordAtPc = 0x0000 := by
  obtain ⟨-, -, hpc⟩ := load_starts h
  obtain ⟨-, -, -, hzero, -⟩ := loadedMachine c [] programId m h
  have hfirst : m.memRead 0x200 = 0 := hzero 0x200 (by decide) (by decide)
  have hsecond : m.memRead 0x201 = 0 := hzero 0x201 (by decide) (by decide)
  rw [State.wordAtPc, hpc]
  exact congrArg₂ wordOfBytes hfirst hsecond

/-- A machine about to run the word 0x0000 halts with it: it is the SYS of address 0, which R112 makes an error. -/
theorem State.cycle_zero_word {s : State} (hrun : s.runState = .running) (hawait : s.await = none)
    (hpc : s.pc.toNat < 0x1000) (hword : s.wordAtPc = 0x0000) :
    s.cycle = .next (HaltedWith s (.unknownOpcode 0x0000)) := by
  have hdecode : decode s.wordAtPc = .ok (.sys 0) := by rw [hword]; decide
  calc s.cycle
    _ = exec (.sys 0) s := State.cycle_exec hrun hawait hpc hdecode
    _ = .next (HaltedWith s (.unknownOpcode 0x0000)) := sysHaltsWithItsWord 0 s

/-- Settles O49: by the ROM's length; the empty ROM's machine runs the word 0x0000. -/
theorem romSizes : Obligations.RomSizes := by
  intro c rom programId
  refine ⟨fun hlen => ?fits, load_too_long c programId, fun hempty => ?empty⟩
  case fits =>
    obtain ⟨m, h⟩ := load_fits c programId hlen
    obtain ⟨-, -, hpc⟩ := load_starts h
    obtain ⟨-, -, hrom, -⟩ := loadedMachine c rom programId m h
    exact ⟨m, h, hpc, hrom⟩
  case empty =>
    subst hempty
    obtain ⟨m, h⟩ := load_fits c (rom := []) programId (Nat.zero_le 3584)
    obtain ⟨hrun, hawait, hpc⟩ := load_starts h
    have hfetched : m.pc.toNat < 0x1000 := by rw [hpc]; decide
    have hhalts := State.cycle_zero_word hrun hawait hfetched (wordAtPc_load_empty h)
    exact ⟨m, h, hhalts⟩

/-! ## A load on a machine (R302 to R304) -/

theorem State.applyEvent_load (s : State) {rom : List Byte} {programId : ProgramId} {result : Except CoreError State}
    (h : load s.config rom programId = result) : s.applyEvent (.load rom programId) = .next (s.afterLoad result) := by
  rw [State.applyEvent, h]

/-- Settles O51: by the result of the load, which `afterLoad` takes or drops; an unreadable ROM is a failed load. -/
theorem loadReplacesOrLeaves : Obligations.LoadReplacesOrLeaves :=
  fun s _ _ => ⟨fun _ => s.applyEvent_load, fun _ => s.applyEvent_load, rfl⟩

end Sys2Proof.Machine
